-- ==== Sys2Proof/Word.lean ====
section
/-!
DEFINITION. The two word types of the block: a 32-bit register value and a byte of text.
-/
namespace Sys2Proof

/-- A register value: 32 bits, bit i of weight 2^i (R6 `WORD`, R7). -/
abbrev Word := BitVec 32

/-- A byte of the command text, of the Last-Error text or of an encoded request (R41). -/
abbrev Byte := BitVec 8

end Sys2Proof
end

