-- ==== Sys2Proof/Config.lean ====
section
/-!
DEFINITION. The OPEN parameters of R6 and the draw MAP_GRANT, and their free values.

The parameters are an argument of every claim: `Params` is plain data, carried by the state and never written
by a step (log 2). `Config.params` is what `State.reset` carries: opaque constants, so no proof can see which
legal values they have (log 3). The values R6 states or decides (offsets, ranges, capacities) stand beside the
definitions that use them, in Machine/Text.lean and Machine/Operands.lean.
-/
namespace Sys2Proof

/-- LED_PINS = [q0, q1, q2] (R6, R123, D14): pins of 0..31. That they are distinct is `LedPins.Distinct`. -/
structure LedPins where
  q0 : Fin 32
  q1 : Fin 32
  q2 : Fin 32
deriving DecidableEq, Repr, Inhabited

/-- "three distinct values in 0..31" (R6). -/
abbrev LedPins.Distinct (l : LedPins) : Prop := l.q0 ≠ l.q1 ∧ l.q0 ≠ l.q2 ∧ l.q1 ≠ l.q2

/-- The pins in list order (R123, R124). -/
def LedPins.list (l : LedPins) : List (Fin 32) := [l.q0, l.q1, l.q2]

/-- Why the environment refuses the mapping (R65: "e.g., address unavailable, permission denied"). The list is
open, so any other reason is a numbered one (log 20). -/
inductive MapReason where
  | addressUnavailable
  | permissionDenied
  | other (code : Nat)
deriving DecidableEq, Repr, Inhabited

/-- The draw MAP_GRANT (R6, R65): the environment grants the mapping at an address of its choice, or refuses. -/
inductive MapAnswer where
  | granted (base : Nat)
  | refused (reason : MapReason)
deriving DecidableEq, Repr, Inhabited

/-- The OPEN parameters (R6). `windowSpare` is the number of words the window has beyond CLR0, so that every
value of it gives a legal WINDOW_LEN and every legal WINDOW_LEN is given by one (`Params.windowLen`). -/
structure Params where
  physBase    : Nat
  windowSpare : Nat
  ledPins     : LedPins
  mapGrant    : MapAnswer
deriving DecidableEq, Repr, Inhabited

/-- WINDOW_LEN in bytes: a multiple of 4 and at least 0x2C (R6, R32, D2). -/
def Params.windowLen (p : Params) : Nat := 4 * p.windowSpare + 0x2C

/-- PHYS_BASE (R6, D1): OPEN. -/
opaque Config.physBase : Nat

/-- The free part of WINDOW_LEN (R6, D2): OPEN. -/
opaque Config.windowSpare : Nat

/-- Three pins of 0..31 (R6, D14): OPEN. -/
opaque Config.threePins : LedPins

/-- The environment's answer to MAP (R6, D29): a draw. -/
opaque Config.mapGrant : MapAnswer

/-- LED_PINS at reset (R6, D14): the free triple where it is distinct; else the spec's example triple, which is
as free as any other distinct one (log 3). -/
def Config.ledPins : LedPins :=
  if Config.threePins.Distinct then Config.threePins else ⟨17, 27, 22⟩

/-- The parameters `State.reset` carries. -/
def Config.params : Params where
  physBase    := Config.physBase
  windowSpare := Config.windowSpare
  ledPins     := Config.ledPins
  mapGrant    := Config.mapGrant

end Sys2Proof
end

