-- ==== Sys2Proof/Syntax.lean ====
section
/-!
DEFINITION. The operations of spec/opcode_table.json, one constructor per row, and the encoded requests they
are read from (R50).
-/
namespace Sys2Proof

/-- The level an operation is encoded at: the `format` field of its row (R50). -/
inductive Level where
  | bus   -- a window access, a packed 65-bit value (R51)
  | op    -- a unit operation with its arguments, written as in R63
  | cmd   -- a command text (R56)
  | host  -- a Host request, written as in R63
deriving DecidableEq, Repr

/-- An encoded request: its level and its bytes, byte 0 first (R41, R50). -/
structure Code where
  level : Level
  bytes : List Byte
deriving DecidableEq, Repr

/-- The three actions a command can name (R60). -/
inductive Action where
  | on | off | blink
deriving DecidableEq, Repr

/-- What Parse answers (R87): the pin field P and the token T, or Malformed. -/
inductive Parsed where
  | malformed
  | ok (pin : Int) (token : List Byte)
deriving DecidableEq, Repr

/-- The operations (R50; one constructor per row of spec/opcode_table.json, in the table's order). -/
inductive Instr where
  /-- BUS `(R, 4n, data)` (R51, R67). For a read, `data` is the field the device fills. -/
  | busRdFsel0 (data : Word)
  | busRdFsel1 (data : Word)
  | busRdFsel2 (data : Word)
  | busRdFsel3 (data : Word)
  | busRdFsel4 (data : Word)
  | busRdFsel5 (data : Word)
  /-- BUS `(W, 4n, data)` (R51, R68). -/
  | busWrFsel0 (data : Word)
  | busWrFsel1 (data : Word)
  | busWrFsel2 (data : Word)
  | busWrFsel3 (data : Word)
  | busWrFsel4 (data : Word)
  | busWrFsel5 (data : Word)
  /-- BUS `(W, 0x1C, data)` (R17, R51, R68). -/
  | busWrSet0 (data : Word)
  /-- BUS `(W, 0x28, data)` (R18, R51, R68). -/
  | busWrClr0 (data : Word)
  /-- R65. -/
  | map
  /-- R66. -/
  | unmap
  /-- R67: `off` is an integer byte offset. -/
  | readWord (off : Int)
  /-- R68. -/
  | writeWord (off : Int) (v : Word)
  /-- R70: `p` is an integer pin. -/
  | configureAsOutput (p : Int)
  /-- R71. -/
  | set (p : Int)
  /-- R72. -/
  | clear (p : Int)
  /-- R77: `d` is a duration in ms, of any sign and size. -/
  | blink (p : Int) (d : Int)
  /-- R79: `ms` is positive (`WellFormed`). -/
  | delay (ms : Nat)
  /-- R89: the command `"<P>:on"`. -/
  | cmdOn (p : Int)
  /-- R90. -/
  | cmdOff (p : Int)
  /-- R91. -/
  | cmdBlink (p : Int)
  /-- R92: a token that is none of the three actions. -/
  | cmdUnknown (p : Int) (token : List Byte)
  /-- R93: any text the grammar rejects. -/
  | cmdMalformed
  /-- R98. -/
  | openChannel
  /-- R99: the caller's bytes (n is their number) and the Host's draw COPY_IN_OK. -/
  | write (buf : List Byte) (copyInOk : Bool)
  /-- R100: the caller's length and offset and the Host's draw COPY_OUT_OK. -/
  | read (maxLen : Nat) (off : Int) (copyOutOk : Bool)
  /-- R101. -/
  | closeChannel
  /-- R123. -/
  | startup
  /-- R124. -/
  | shutdown
deriving DecidableEq, Repr

/-- The level of an operation: the `format` field of its row (R50). -/
def Instr.level : Instr → Level
  | .busRdFsel0 _ | .busRdFsel1 _ | .busRdFsel2 _ | .busRdFsel3 _ | .busRdFsel4 _ | .busRdFsel5 _ => .bus
  | .busWrFsel0 _ | .busWrFsel1 _ | .busWrFsel2 _ | .busWrFsel3 _ | .busWrFsel4 _ | .busWrFsel5 _ => .bus
  | .busWrSet0 _ | .busWrClr0 _ => .bus
  | .map | .unmap | .readWord _ | .writeWord _ _ => .op
  | .configureAsOutput _ | .set _ | .clear _ | .blink _ _ | .delay _ => .op
  | .cmdOn _ | .cmdOff _ | .cmdBlink _ | .cmdUnknown _ _ | .cmdMalformed => .cmd
  | .openChannel | .write _ _ | .read _ _ _ | .closeChannel | .startup | .shutdown => .host

end Sys2Proof
end

