-- ==== Sys2Proof/Machine/Text.lean ====
section
/-!
DEFINITION. The text the block reads and writes: character classes, numerals, the effective text of a WRITE
(R59), the parser of the command grammar (R56 to R58, R87) and the action tokens (R60).

It stands before WellFormed and Decode because both count and read characters.
-/
namespace Sys2Proof.Machine

/-- CMD_MAX: bytes of one command the block interprets (R6). -/
def cmdMax : Nat := 255

/-- TOKEN_MAX: maximum characters of the action token (R6). -/
def tokenMax : Nat := 9

/-- ASCII bytes of a list of characters (R41, D13). -/
def ascii (cs : List Char) : List Byte := cs.map fun c => BitVec.ofNat 8 c.toNat

/-! ## Character classes (R56) -/

/-- WS: 0x20 or 0x09..0x0D. -/
def isWs (b : Byte) : Bool := b = 0x20 || (0x09 ≤ b && b ≤ 0x0D)

/-- DIGIT: 0x30..0x39. -/
def isDigit (b : Byte) : Bool := 0x30 ≤ b && b ≤ 0x39

/-- NWS: neither WS nor 0x00. -/
def isNws (b : Byte) : Bool := !isWs b && b ≠ 0x00

/-! ## Numerals -/

/-- The value of a string of decimal digits, most significant first (R57). -/
def decimalValue (ds : List Byte) : Nat := ds.foldl (fun acc d => 10 * acc + (d.toNat - 0x30)) 0

/-- The digit character of a value below 10. -/
def digitByte (d : Nat) : Byte := BitVec.ofNat 8 (0x30 + d)

/-- Decimal digits of `n` put in front of `acc`; `fuel` bounds their number. -/
def decimalDigits : Nat → Nat → List Byte → List Byte
  | 0, _, acc => acc
  | fuel + 1, n, acc =>
    if n / 10 = 0 then digitByte (n % 10) :: acc
    else decimalDigits fuel (n / 10) (digitByte (n % 10) :: acc)

/-- The decimal numeral of `n`, without leading zeros. -/
def natText (n : Nat) : List Byte := decimalDigits (n + 1) n []

/-- The decimal numeral of an integer: "-" before the digits of a negative one (R56 `pin`, R57). -/
def intText (z : Int) : List Byte :=
  if z < 0 then 0x2D :: natText z.natAbs else natText z.natAbs

/-! ## The command text -/

/-- The effective text (R59): the first min(n, CMD_MAX) bytes, up to the first 0x00. -/
def effectiveText (buf : List Byte) : List Byte := (buf.take cmdMax).takeWhile (· ≠ 0x00)

/-- The optional sign of the pin field (R56, R87): whether it is "-", and the text after it. -/
def takeSign : List Byte → Bool × List Byte
  | [] => (false, [])
  | c :: rest => if c = 0x2D then (true, rest) else if c = 0x2B then (false, rest) else (false, c :: rest)

/-- The token field (R58, R87): after any WS, the run of non-WS bytes, cut at TOKEN_MAX. -/
def takeToken (t : List Byte) : List Byte :=
  ((t.dropWhile isWs).take tokenMax).takeWhile (!isWs ·)

/-- Parse (R87) of an effective text. -/
def parse (t : List Byte) : Parsed :=
  let signed := takeSign (t.dropWhile isWs)
  let digits := signed.2.takeWhile isDigit
  if digits = [] then .malformed                             -- "non-integer pin"
  else
    match signed.2.dropWhile isDigit with
    | [] => .malformed                                       -- "missing colon"
    | c :: rest =>
      if c ≠ 0x3A then .malformed
      else if takeToken rest = [] then .malformed            -- "no trailing token"
      else
        let value : Int := decimalValue digits
        .ok (if signed.1 then -value else value) (takeToken rest)

/-- The literal tokens (R60). -/
def tokenOf : Action → List Byte
  | .on => ascii ['o', 'n']
  | .off => ascii ['o', 'f', 'f']
  | .blink => ascii ['b', 'l', 'i', 'n', 'k']

/-- The action a token names, by exact, case-sensitive comparison (R60). -/
def actionOf (token : List Byte) : Option Action :=
  if token = tokenOf .on then some .on
  else if token = tokenOf .off then some .off
  else if token = tokenOf .blink then some .blink
  else none

/-- The canonical text of a command: `"<P>:<T>"` (R56). -/
def commandText (pin : Int) (token : List Byte) : List Byte := intText pin ++ 0x3A :: token

end Sys2Proof.Machine
end

