-- ==== Sys2Proof/WellFormed.lean ====
section
/-!
DEFINITION. Which terms of `Instr` are operations the spec has: the operand limits of R79, R56 to R60.
The limits that an operation itself checks (pin ranges, offsets, a READ's offset) are not here: there the
operation runs and raises what its rule says.
-/
namespace Sys2Proof
open Sys2Proof.Machine

/-- A command fits in one WRITE: its canonical text is delivered whole (R59, R62). -/
def commandFits (pin : Int) (token : List Byte) : Bool := (commandText pin token).length ≤ cmdMax

/-- A token the grammar can give and the opcode map does not name (R56, R58, R60). -/
def unknownToken (token : List Byte) : Bool :=
  token ≠ [] && token.length ≤ tokenMax && token.all isNws && actionOf token = none

/-- The well-formed operations. -/
def wellFormed : Instr → Bool
  | .delay ms => 0 < ms                                                   -- "ms, a positive integer" (R79)
  | .cmdOn p => commandFits p (tokenOf .on)
  | .cmdOff p => commandFits p (tokenOf .off)
  | .cmdBlink p => commandFits p (tokenOf .blink)
  | .cmdUnknown p token => commandFits p token && unknownToken token
  | .busRdFsel0 _ | .busRdFsel1 _ | .busRdFsel2 _ | .busRdFsel3 _ | .busRdFsel4 _ | .busRdFsel5 _ => true
  | .busWrFsel0 _ | .busWrFsel1 _ | .busWrFsel2 _ | .busWrFsel3 _ | .busWrFsel4 _ | .busWrFsel5 _ => true
  | .busWrSet0 _ | .busWrClr0 _ => true
  | .map | .unmap | .readWord _ | .writeWord _ _ => true
  | .configureAsOutput _ | .set _ | .clear _ | .blink _ _ => true
  | .cmdMalformed => true
  | .openChannel | .write _ _ | .read _ _ _ | .closeChannel | .startup | .shutdown => true

end Sys2Proof
end

