-- ==== Sys2Proof/Decode.lean ====
section
/-!
DEFINITION. From an encoded request to an operation or a refusal by name, for each level of R50, and back.

BUS words are the packed 65-bit values of R51, laid out as nine bytes, byte 0 first (log 13). OP and HOST
requests are written as R63 writes them (log 15). CMD texts follow the grammar of R56.
-/
namespace Sys2Proof
open Sys2Proof.Machine

/-- Why an encoded request is no operation of the table. -/
inductive DecodeError where
  /-- Not nine bytes, or bits above bit 64 set: an access of another width (R33). -/
  | busWidth
  /-- A 65-bit value that matches no row (R51): kind, offset and data are kept, for the fault of R35. -/
  | busNoRow (isWrite : Bool) (off : Word) (data : Word)
  /-- A text that is no call of a unit operation (R63). -/
  | noSuchOperation
  /-- A text that is no Host request (R63). -/
  | noSuchRequest
deriving DecidableEq, Repr

/-! ## BUS level (R51) -/

/-- `k` bytes of `w`, the least significant first (R41, D21). -/
def leBytes : Nat → Nat → List Byte
  | 0, _ => []
  | k + 1, w => BitVec.ofNat 8 w :: leBytes k (w / 256)

/-- The number whose bytes, least significant first, are `bs`. -/
def leValue : List Byte → Nat
  | [] => 0
  | b :: bs => b.toNat + 256 * leValue bs

/-- The mask of every BUS row: kind and off exactly (R51; opcode_table.json "mask"). -/
def busMask : BitVec 65 := 0x1ffffffff00000000

/-- The BUS rows: the "match" of opcode_table.json and the operation, given its data field. -/
def busRows : List (BitVec 65 × (Word → Instr)) :=
  [ (0x0,         .busRdFsel0),
    (0x400000000, .busRdFsel1),
    (0x800000000, .busRdFsel2),
    (0xc00000000, .busRdFsel3),
    (0x1000000000, .busRdFsel4),
    (0x1400000000, .busRdFsel5),
    (0x10000000000000000, .busWrFsel0),
    (0x10000000400000000, .busWrFsel1),
    (0x10000000800000000, .busWrFsel2),
    (0x10000000c00000000, .busWrFsel3),
    (0x10000001000000000, .busWrFsel4),
    (0x10000001400000000, .busWrFsel5),
    (0x10000001c00000000, .busWrSet0),
    (0x10000002800000000, .busWrClr0) ]

/-- The data field, bits 31:0 (R51). -/
def busData (w : BitVec 65) : Word := w.extractLsb' 0 32

/-- The offset field, bits 63:32 (R51). -/
def busOff (w : BitVec 65) : Word := w.extractLsb' 32 32

/-- The kind field, bit 64: 1 for a write (R51). -/
def busIsWrite (w : BitVec 65) : Bool := w.getLsbD 64

/-- The access a 65-bit value names (R51). -/
def decodeBusWord (w : BitVec 65) : Except DecodeError Instr :=
  match busRows.find? fun row => w &&& busMask = row.1 with
  | some row => .ok (row.2 (busData w))
  | none => .error (.busNoRow (busIsWrite w) (busOff w) (busData w))

/-- A BUS request: nine bytes whose bits above bit 64 are zero. -/
def decodeBus (bs : List Byte) : Except DecodeError Instr :=
  if bs.length = 9 ∧ leValue bs < 2 ^ 65 then decodeBusWord (BitVec.ofNat 65 (leValue bs))
  else .error .busWidth

/-- The bytes of one access: kind, off and data packed as R51 packs them. -/
def busBytes (isWrite : Bool) (off data : Word) : List Byte :=
  leBytes 9 ((if isWrite then 2 ^ 64 else 0) + off.toNat * 2 ^ 32 + data.toNat)

/-! ## Reading the text of OP and HOST requests (R63) -/

/-- What follows a literal beginning, if the text begins so. -/
def stripPrefix : List Byte → List Byte → Option (List Byte)
  | [], bs => some bs
  | _ :: _, [] => none
  | c :: cs, b :: bs => if c = b then stripPrefix cs bs else none

/-- The value of an octal digit. -/
def octalDigit (b : Byte) : Option Nat :=
  if 0x30 ≤ b ∧ b ≤ 0x37 then some (b.toNat - 0x30) else none

/-- The value of a hexadecimal digit. -/
def hexDigit (b : Byte) : Option Nat :=
  if isDigit b then some (b.toNat - 0x30)
  else if 0x41 ≤ b ∧ b ≤ 0x46 then some (b.toNat - 0x37)
  else if 0x61 ≤ b ∧ b ≤ 0x66 then some (b.toNat - 0x57)
  else none

/-- The value of a string of hexadecimal digits. -/
def hexValue (ds : List Byte) : Nat := ds.foldl (fun acc d => 16 * acc + (hexDigit d).getD 0) 0

/-- A number in front of a text: decimal, or hexadecimal after "0x" (R7, R63). -/
def readNat (bs : List Byte) : Option (Nat × List Byte) :=
  match stripPrefix (ascii ['0', 'x']) bs with
  | some rest =>
    let ds := rest.takeWhile fun b => (hexDigit b).isSome
    if ds = [] then none else some (hexValue ds, rest.dropWhile fun b => (hexDigit b).isSome)
  | none =>
    let ds := bs.takeWhile isDigit
    if ds = [] then none else some (decimalValue ds, bs.dropWhile isDigit)

/-- An integer in front of a text: a number, or "-" and a number. -/
def readInt (bs : List Byte) : Option (Int × List Byte) :=
  match stripPrefix (ascii ['-']) bs with
  | some rest => (readNat rest).map fun r => (-(r.1 : Int), r.2)
  | none => (readNat bs).map fun r => ((r.1 : Int), r.2)

/-- The argument of `name(z)`. -/
def readCall1 (name : List Byte) (bs : List Byte) : Option Int :=
  (stripPrefix (name ++ ascii ['(']) bs).bind fun r0 =>
  (readInt r0).bind fun a =>
  if a.2 = ascii [')'] then some a.1 else none

/-- The arguments of `name(y, z)`. -/
def readCall2 (name : List Byte) (bs : List Byte) : Option (Int × Int) :=
  (stripPrefix (name ++ ascii ['(']) bs).bind fun r0 =>
  (readInt r0).bind fun a =>
  (stripPrefix (ascii [',', ' ']) a.2).bind fun r1 =>
  (readInt r1).bind fun b =>
  if b.2 = ascii [')'] then some (a.1, b.1) else none

/-! ## C escapes (R63: "text with C escapes") -/

/-- Where in an escape sequence a reader stands. -/
inductive EscapeMode where
  | plain
  | slash
  | octal (value left : Nat)
  | hex (value left : Nat)
  | hexFirst
deriving DecidableEq, Repr

/-- What one character does to the reader of a text in quotes. -/
inductive EscapeMove where
  /-- The character belongs to an escape sequence that goes on. -/
  | inside (mode : EscapeMode)
  /-- The character ends an escape sequence that stands for a byte. -/
  | emit (b : Byte)
  /-- The character stands for itself, after the bytes of an escape sequence it ended. -/
  | outside (pending : List Byte)
  /-- No C escape. -/
  | bad
deriving DecidableEq, Repr

/-- The eleven simple escapes of C (log 15). -/
def simpleEscape (c : Byte) : Option Byte :=
  if c = 0x6E then some 0x0A else if c = 0x74 then some 0x09 else if c = 0x72 then some 0x0D
  else if c = 0x76 then some 0x0B else if c = 0x66 then some 0x0C else if c = 0x61 then some 0x07
  else if c = 0x62 then some 0x08 else if c = 0x5C then some 0x5C else if c = 0x22 then some 0x22
  else if c = 0x27 then some 0x27 else if c = 0x3F then some 0x3F else none

/-- One character of a text in quotes: octal escapes have one to three digits, hexadecimal ones one or two. -/
def escapeMove (mode : EscapeMode) (c : Byte) : EscapeMove :=
  match mode with
  | .plain => .outside []
  | .slash =>
    match simpleEscape c, octalDigit c with
    | some b, _ => .emit b
    | none, some d => .inside (.octal d 2)
    | none, none => if c = 0x78 then .inside .hexFirst else .bad
  | .octal v left =>
    match octalDigit c, left with
    | some d, left' + 1 => .inside (.octal (8 * v + d) left')
    | _, _ => if v < 256 then .outside [BitVec.ofNat 8 v] else .bad
  | .hexFirst =>
    match hexDigit c with
    | some d => .inside (.hex d 1)
    | none => .bad
  | .hex v left =>
    match hexDigit c, left with
    | some d, left' + 1 => .inside (.hex (16 * v + d) left')
    | some _, 0 => .bad
    | none, _ => .outside [BitVec.ofNat 8 v]

/-- Bytes put in front of what a reader answers. -/
def prepend (bs : List Byte) (r : Option (List Byte × List Byte)) : Option (List Byte × List Byte) :=
  r.map fun x => (bs ++ x.1, x.2)

/-- The bytes of a text up to its closing quote, and what follows the quote. -/
def readQuoted : EscapeMode → List Byte → Option (List Byte × List Byte)
  | _, [] => none
  | mode, c :: cs =>
    match escapeMove mode c with
    | .bad => none
    | .inside next => readQuoted next cs
    | .emit b => prepend [b] (readQuoted .plain cs)
    | .outside pending =>
      if c = 0x22 then some (pending, cs)
      else if c = 0x5C then prepend pending (readQuoted .slash cs)
      else prepend (pending ++ [c]) (readQuoted .plain cs)

/-- A byte as a text in quotes writes it: itself, or an octal escape of three digits. -/
def quoteByte (b : Byte) : List Byte :=
  if 0x20 ≤ b ∧ b ≤ 0x7E ∧ b ≠ 0x22 ∧ b ≠ 0x5C then [b]
  else [0x5C, digitByte (b.toNat / 64), digitByte (b.toNat / 8 % 8), digitByte (b.toNat % 8)]

/-! ## OP level -/

def nameMap : List Byte := ascii ['M', 'A', 'P']
def nameUnmap : List Byte := ascii ['U', 'N', 'M', 'A', 'P']
def nameReadWord : List Byte := ascii ['R', 'E', 'A', 'D', '_', 'W', 'O', 'R', 'D']
def nameWriteWord : List Byte := ascii ['W', 'R', 'I', 'T', 'E', '_', 'W', 'O', 'R', 'D']
def nameConfigure : List Byte :=
  ascii ['C', 'O', 'N', 'F', 'I', 'G', 'U', 'R', 'E', '_', 'A', 'S', '_', 'O', 'U', 'T', 'P', 'U', 'T']
def nameSet : List Byte := ascii ['S', 'E', 'T']
def nameClear : List Byte := ascii ['C', 'L', 'E', 'A', 'R']
def nameBlink : List Byte := ascii ['B', 'L', 'I', 'N', 'K']
def nameDelay : List Byte := ascii ['D', 'E', 'L', 'A', 'Y']

/-- A 32-bit value as the second argument of WRITE_WORD (R68). -/
def wordOf (z : Int) : Option Word := if 0 ≤ z ∧ z < 2 ^ 32 then some (BitVec.ofInt 32 z) else none

/-- The forms of R63 for the unit operations. -/
def opForms : List (List Byte → Option Instr) :=
  [ fun bs => if bs = nameMap then some .map else none,
    fun bs => if bs = nameUnmap then some .unmap else none,
    fun bs => (readCall1 nameReadWord bs).map .readWord,
    fun bs => (readCall2 nameWriteWord bs).bind fun a => (wordOf a.2).map (.writeWord a.1),
    fun bs => (readCall1 nameConfigure bs).map .configureAsOutput,
    fun bs => (readCall1 nameSet bs).map .set,
    fun bs => (readCall1 nameClear bs).map .clear,
    fun bs => (readCall2 nameBlink bs).map fun a => .blink a.1 a.2,
    fun bs => (readCall1 nameDelay bs).bind fun ms => if 0 < ms then some (.delay ms.toNat) else none ]

/-- A call of a unit operation. -/
def decodeOp (bs : List Byte) : Except DecodeError Instr :=
  match opForms.findSome? fun form => form bs with
  | some i => .ok i
  | none => .error .noSuchOperation

/-- `name(z)`. -/
def callText1 (name : List Byte) (z : Int) : List Byte := name ++ ascii ['('] ++ intText z ++ ascii [')']

/-- `name(y, z)`. -/
def callText2 (name : List Byte) (y z : Int) : List Byte :=
  name ++ ascii ['('] ++ intText y ++ ascii [',', ' '] ++ intText z ++ ascii [')']

/-! ## CMD level (R56 to R60) -/

/-- The row a parsed command belongs to (R60). -/
def commandOf : Parsed → Instr
  | .malformed => .cmdMalformed
  | .ok p token =>
    match actionOf token with
    | some .on => .cmdOn p
    | some .off => .cmdOff p
    | some .blink => .cmdBlink p
    | none => .cmdUnknown p token

/-- A command text: every text is a command (R60, R61). -/
def decodeCmd (bs : List Byte) : Instr := commandOf (parse (effectiveText bs))

/-! ## HOST level -/

def nameOpen : List Byte := ascii ['O', 'P', 'E', 'N']
def nameClose : List Byte := ascii ['C', 'L', 'O', 'S', 'E']
def nameStartup : List Byte := ascii ['S', 'T', 'A', 'R', 'T', 'U', 'P']
def nameShutdown : List Byte := ascii ['S', 'H', 'U', 'T', 'D', 'O', 'W', 'N']
/-- `WRITE "`. -/
def writeOpening : List Byte := ascii ['W', 'R', 'I', 'T', 'E', ' ', '"']
/-- `READ `. -/
def readOpening : List Byte := ascii ['R', 'E', 'A', 'D', ' ']
/-- `, COPY_IN_OK = false`, as 95_test_vectors.md V100 writes a draw that is not the usual one (log 15). -/
def copyInFails : List Byte :=
  ascii [',', ' ', 'C', 'O', 'P', 'Y', '_', 'I', 'N', '_', 'O', 'K', ' ', '=', ' ', 'f', 'a', 'l', 's', 'e']
/-- `, COPY_OUT_OK = false`, as 95_test_vectors.md V99 writes it. -/
def copyOutFails : List Byte :=
  ascii [',', ' ', 'C', 'O', 'P', 'Y', '_', 'O', 'U', 'T', '_', 'O', 'K', ' ', '=', ' ', 'f', 'a', 'l', 's', 'e']

/-- The end of a request: nothing, or the draw that the copy faults. -/
def readDraw (fails : List Byte) (bs : List Byte) : Option Bool :=
  if bs = [] then some true else if bs = fails then some false else none

/-- `WRITE "<text>"` (R63, R99). -/
def readWriteRequest (bs : List Byte) : Option Instr :=
  (stripPrefix writeOpening bs).bind fun r0 =>
  (readQuoted .plain r0).bind fun q =>
  (readDraw copyInFails q.2).map fun ok => .write q.1 ok

/-- `READ <max_len> <offset>` (R63, R100). -/
def readReadRequest (bs : List Byte) : Option Instr :=
  (stripPrefix readOpening bs).bind fun r0 =>
  (readNat r0).bind fun n =>
  (stripPrefix (ascii [' ']) n.2).bind fun r1 =>
  (readInt r1).bind fun off =>
  (readDraw copyOutFails off.2).map fun ok => .read n.1 off.1 ok

/-- The forms of R63 for the Host's requests. -/
def hostForms : List (List Byte → Option Instr) :=
  [ fun bs => if bs = nameOpen then some .openChannel else none,
    readWriteRequest,
    readReadRequest,
    fun bs => if bs = nameClose then some .closeChannel else none,
    fun bs => if bs = nameStartup then some .startup else none,
    fun bs => if bs = nameShutdown then some .shutdown else none ]

/-- A Host request. -/
def decodeHost (bs : List Byte) : Except DecodeError Instr :=
  match hostForms.findSome? fun form => form bs with
  | some i => .ok i
  | none => .error .noSuchRequest

/-! ## All levels -/

/-- The operation an encoded request names (R50). -/
def decode (c : Code) : Except DecodeError Instr :=
  match c.level with
  | .bus => decodeBus c.bytes
  | .op => decodeOp c.bytes
  | .cmd => .ok (decodeCmd c.bytes)
  | .host => decodeHost c.bytes

/-- The bytes of an operation: for BUS the packing of R51, for OP and HOST the syntax of R63, for CMD the
canonical text of R56 (log 29). -/
def encodeBytes : Instr → List Byte
  | .busRdFsel0 d => busBytes false 0x00 d
  | .busRdFsel1 d => busBytes false 0x04 d
  | .busRdFsel2 d => busBytes false 0x08 d
  | .busRdFsel3 d => busBytes false 0x0C d
  | .busRdFsel4 d => busBytes false 0x10 d
  | .busRdFsel5 d => busBytes false 0x14 d
  | .busWrFsel0 d => busBytes true 0x00 d
  | .busWrFsel1 d => busBytes true 0x04 d
  | .busWrFsel2 d => busBytes true 0x08 d
  | .busWrFsel3 d => busBytes true 0x0C d
  | .busWrFsel4 d => busBytes true 0x10 d
  | .busWrFsel5 d => busBytes true 0x14 d
  | .busWrSet0 d => busBytes true 0x1C d
  | .busWrClr0 d => busBytes true 0x28 d
  | .map => nameMap
  | .unmap => nameUnmap
  | .readWord off => callText1 nameReadWord off
  | .writeWord off v => callText2 nameWriteWord off v.toNat
  | .configureAsOutput p => callText1 nameConfigure p
  | .set p => callText1 nameSet p
  | .clear p => callText1 nameClear p
  | .blink p d => callText2 nameBlink p d
  | .delay ms => callText1 nameDelay ms
  | .cmdOn p => commandText p (tokenOf .on)
  | .cmdOff p => commandText p (tokenOf .off)
  | .cmdBlink p => commandText p (tokenOf .blink)
  | .cmdUnknown p token => commandText p token
  | .cmdMalformed => []
  | .openChannel => nameOpen
  | .write buf ok => writeOpening ++ buf.flatMap quoteByte ++ [0x22] ++ (if ok then [] else copyInFails)
  | .read n off ok => readOpening ++ natText n ++ ascii [' '] ++ intText off ++ (if ok then [] else copyOutFails)
  | .closeChannel => nameClose
  | .startup => nameStartup
  | .shutdown => nameShutdown

/-- The encoded request of an operation. -/
def encode (i : Instr) : Code := ⟨i.level, encodeBytes i⟩

/-- The bytes of an instruction whose bits are `w`, numbered as opcode_table.json numbers them; bits from
`nbits` up to the nine bytes of a BUS word are zero. Only BUS rows have bits (R50, R51). -/
def tableWordBytes (nbits w : Nat) : List Byte := leBytes (max 9 ((nbits + 7) / 8)) (w % 2 ^ nbits)

/-- What the decoder reads from a table word. -/
def decodeTableWord (nbits w : Nat) : Option Instr := (decode ⟨.bus, tableWordBytes nbits w⟩).toOption

end Sys2Proof
end

