-- ==== Sys2Proof/Machine/State.lean ====
section
/-!
DEFINITION. The state of the block (R11), the events, faults, errors and replies it records, the reasons a step
can stop, and the state at launch (R125).
-/
namespace Sys2Proof.Machine

/-! ## The pieces of the state -/

/-- The mapping state (R21). -/
inductive MapState where
  | preMap | mapped | mapFailed | unmapped
deriving DecidableEq, Repr

/-- The six stored window registers (R13). -/
structure FselBank where
  f0 : Word
  f1 : Word
  f2 : Word
  f3 : Word
  f4 : Word
  f5 : Word
deriving DecidableEq, Repr

/-- The window registers by name (R13, R51). -/
inductive RegName where
  | fsel (n : Fin 6)
  | set0
  | clr0
deriving DecidableEq, Repr

/-- The phases of a blink cycle (R24). -/
inductive Phase where
  | setHigh | waitHigh | setLow | waitLow
deriving DecidableEq, Repr

/-- The sequencer state (R24): a pin of 0..31, the cycles not yet finished, and the phase. -/
inductive SeqState where
  | idle
  | blinking (pin : Fin 32) (remaining : Nat) (phase : Phase)
deriving DecidableEq, Repr

/-- The events of the trace (R27). -/
inductive Event where
  | rd (off : Nat) (v : Word)
  | wr (off : Nat) (v : Word)
  | dly (ms : Nat)
  | mapAnswered (granted : Bool)
  | unmapped
  | err (msg : List Byte)
deriving DecidableEq, Repr

/-- The fault codes (R107). -/
inductive FaultCode where
  | notMapped | misaligned | outOfWindow | undefinedRegister | writeOnlyRead
  | pinRange | doubleMap | doubleUnmap | busy
deriving DecidableEq, Repr

/-- The value recorded with a fault code (R107 "value recorded"). -/
inductive FaultValue where
  | off (z : Int)
  | pin (z : Int)
  | map (m : MapState)
  | seq (q : SeqState)
deriving DecidableEq, Repr

/-- A member of the fault set: `(code, value)` (R28, R107, R122). -/
structure FaultRecord where
  code  : FaultCode
  value : FaultValue
deriving DecidableEq, Repr

/-- The error codes (R106). -/
inductive ErrorCode where
  | eMap | eFormat | eAction | ePin | eCopyIn | eCopyOut
deriving DecidableEq, Repr

/-- What a caller gets back (R67, R102, R103, R109). -/
inductive Reply where
  /-- `ok` of OPEN, CLOSE, STARTUP, SHUTDOWN. -/
  | ok
  /-- The value of a register read (R67). -/
  | word (v : Word)
  /-- The byte count of a WRITE (R99). -/
  | count (n : Nat)
  /-- The bytes of a READ, whose number is the count it returns (R100). -/
  | bytes (bs : List Byte)
  /-- An error, with the environment's reason for E_MAP (R106). -/
  | error (code : ErrorCode) (info : Option MapReason)
deriving DecidableEq, Repr

/-- What waits for the Executor to be free (R104; log 8, log 10). -/
inductive Held where
  | write (buf : List Byte) (copyInOk : Bool)
  | command (r : Parsed)
deriving DecidableEq, Repr

/-- One coming turn (R10, R25; log 6): a request, or a turn the requesters leave to the Executor. -/
inductive Turn where
  | request (c : Code)
  | executor
deriving DecidableEq, Repr

/-! ## Why a step can stop -/

/-- No step of this block stops with a fault. R114 and R115: a fault of the spec is ENTERED by adding
`(code, value)` to the fault set, and the agents may go on; so every F_ code of R107 is a next state whose
`faults` holds it (`raiseFault`; log 1). The type is therefore empty: nothing raises it, which is safe. -/
inductive Fault : Type
deriving DecidableEq, Repr

/-- Why a request has no move (R10 "refusal"). -/
inductive Refusal where
  /-- Raised by an arm of `exec` whose instruction has no meaning yet; no arm does. Safe. -/
  | notModelled (mnemonic : String)
  /-- Raised by OPEN, WRITE, READ, CLOSE and commands while map is not Mapped: the channel is not offered
  (R97 to R100, R102). Safe: the spec gives no effect. -/
  | channelNotOffered
  /-- Raised by READ with a negative offset (R100: "A negative off is refused"). Safe. -/
  | negativeOffset
  /-- Raised by SHUTDOWN while a blink or a WRITE is running or held (R102, R124 "precondition"). Safe: the spec
  gives no effect; `step` lets SHUTDOWN wait instead (log 17). -/
  | shutdownNotIdle
  /-- Raised by `step` on a STARTUP other than the first and on a SHUTDOWN while map is not Mapped: the Host never makes
  these requests, and they have no move (R102; log 16). Safe. -/
  | excludedRequest
  /-- Raised by `step` on a BUS request that is no single 32-bit access (R33: "A model refuses any other
  width"). Safe. -/
  | accessWidth
  /-- Raised by `step` on a text that is no operation and no Host request of R63. Safe. -/
  | notARequest
deriving DecidableEq, Repr

/-! ## The state -/

/-- The state of the block (R11), and after `faults` the model's own fields (logs 2, 6, 8, 11). -/
structure State where
  /-- R21. -/
  map     : MapState
  /-- R22: the address of the window's byte 0, meaningful only while map = Mapped. -/
  vbase   : Nat
  /-- FSEL0..FSEL5 (R13, R14). -/
  fsel    : FselBank
  /-- OUT[0..53] (R19); bit p is pin p. -/
  out     : BitVec 54
  /-- The Last-Error text (R23). -/
  lastErr : List Byte
  /-- R24. -/
  seq     : SeqState
  /-- R27; oldest first. -/
  trace   : List Event
  /-- R28: a set, kept as a list without repeats in the order the faults were raised (log 19). -/
  faults  : List FaultRecord
  /-- The parameters (R6), never written (log 2). -/
  params  : Params
  /-- The coming turns, the next one first (log 6). -/
  agenda  : List Turn
  /-- What waits for the Executor, oldest first (log 8). -/
  held    : List Held
  /-- The byte count of the WRITE whose blink is running (log 8). -/
  writing : Option Nat
  /-- What the callers got back, oldest first (log 11). -/
  replies : List Reply
deriving DecidableEq, Repr

/-- How an operation ends (R9): with a result, or with a fault raised, after which it does nothing more. -/
inductive Res (α : Type) where
  | done (a : α) (s : State)
  | raised (s : State)
deriving Repr

/-- What the next step does (Machine/Schedule.lean). -/
inductive Move where
  /-- An operation runs. -/
  | run (i : Instr) (s : State)
  /-- The Executor takes a step of its own. -/
  | executor (s : State)
  /-- A request that is no operation is answered. -/
  | reject (e : DecodeError) (s : State)
  /-- A request has no move. -/
  | refuse (r : Refusal)
deriving Repr

/-! ## Launch -/

/-- The state at launch (R125, 10_state.md section 10), for any parameters and any draws INIT_FSEL and INIT_OUT.
`vbase` is undefined there and nothing reads it before MAP; the model names 0 (DESIGN CHOICE, log 5). -/
def State.launch (p : Params) (initFsel : FselBank) (initOut : BitVec 54) : State where
  map     := .preMap
  vbase   := 0
  fsel    := initFsel
  out     := initOut
  lastErr := []
  seq     := .idle
  trace   := []
  faults  := []
  params  := p
  agenda  := []
  held    := []
  writing := none
  replies := []

/-- The one reset state of the interface: launch with the free parameters of Config and, for the registers the
spec gives no reset value (INIT_FSEL, INIT_OUT are draws, D31), the value zero (DESIGN CHOICE, unsafe, log 4). -/
def State.reset : State := State.launch Config.params ⟨0, 0, 0, 0, 0, 0⟩ 0

end Sys2Proof.Machine
end

