-- ==== Sys2Proof/Machine/Flags.lean ====
section
/-!
DEFINITION. What the block reports. It has no flags, condition codes or predicates (R26): the only status is the
Last-Error text, the errors returned to callers and the fault set. This file gives their codes and texts.
-/
namespace Sys2Proof.Machine

/-- ERR_CAP: capacity of the Last-Error buffer (R6, R23, D13). -/
def errCap : Nat := 256

/-- The numbers of the error codes (R106, D26). -/
def errorNumber : ErrorCode → Nat
  | .eMap => 1
  | .eFormat => 2
  | .eAction => 3
  | .ePin => 4
  | .eCopyIn => 5
  | .eCopyOut => 6

/-- The numbers of the fault codes (R107, D26). -/
def faultNumber : FaultCode → Nat
  | .notMapped => 16
  | .misaligned => 17
  | .outOfWindow => 18
  | .undefinedRegister => 19
  | .writeOnlyRead => 20
  | .pinRange => 21
  | .doubleMap => 22
  | .doubleUnmap => 23
  | .busy => 24

/-- "Invalid input format" (R93, R95, R106 E_FORMAT). -/
def formatMessage : List Byte :=
  ascii ['I', 'n', 'v', 'a', 'l', 'i', 'd', ' ', 'i', 'n', 'p', 'u', 't', ' ', 'f', 'o', 'r', 'm', 'a', 't']

/-- "Unknown action: " and the token (R92, R95, R106 E_ACTION). -/
def actionMessage (token : List Byte) : List Byte :=
  ascii ['U', 'n', 'k', 'n', 'o', 'w', 'n', ' ', 'a', 'c', 't', 'i', 'o', 'n', ':', ' '] ++ token

/-- "pin out of range" (R94, R95, R106 E_PIN). -/
def pinMessage : List Byte :=
  ascii ['p', 'i', 'n', ' ', 'o', 'u', 't', ' ', 'o', 'f', ' ', 'r', 'a', 'n', 'g', 'e']

end Sys2Proof.Machine
end

