-- ==== Sys2Proof/Machine/Operands.lean ====
section
/-!
DEFINITION. Operand forms: the register map (R13, R51), pin arithmetic (R14, R52, R54, R55), the pin ranges
(D4, D5), the cycle count of a blink (R82), and reads of the stored registers.
-/
namespace Sys2Proof.Machine

/-- OFF_SET0, a byte offset (R6, D3, 90_conflicts.md C1). -/
def offSet0 : Nat := 0x1C

/-- OFF_CLR0, a byte offset (R6, D3, 90_conflicts.md C1). -/
def offClr0 : Nat := 0x28

/-- PINS_PER_FSEL (R6). -/
def pinsPerFsel : Nat := 10

/-- FSEL_WIDTH (R6). -/
def fselWidth : Nat := 3

/-- FSEL_OUTPUT (R6, R53). -/
def fselOutput : Word := 1

/-- NPINS_CONFIG: CONFIGURE_AS_OUTPUT accepts 0 .. NPINS_CONFIG-1 (R6, R70, D5). -/
def npinsConfig : Nat := 54

/-- NPINS_DRIVE: SET, CLEAR and BLINK accept 0 .. NPINS_DRIVE-1 (R6, R73, D4). -/
def npinsDrive : Nat := 32

/-- BLINK_CMD_MS (R6, R91). -/
def blinkCmdMs : Int := 5000

/-- PHASE_MS (R6, R78). -/
def phaseMs : Nat := 50

/-- PERIOD_MS (R6, R77). -/
def periodMs : Int := 100

/-! ## The register map -/

/-- The byte offset of a register (R13, R51): 4n for FSELn. -/
def regOffset : RegName → Nat
  | .fsel n => 4 * n.val
  | .set0 => offSet0
  | .clr0 => offClr0

/-- All window registers (R13, R36). -/
def allRegs : List RegName := [.fsel 0, .fsel 1, .fsel 2, .fsel 3, .fsel 4, .fsel 5, .set0, .clr0]

/-- The register at a byte offset, by exact match (R36, R51). -/
def regAt (off : Int) : Option RegName := allRegs.find? fun r => (regOffset r : Int) = off

/-- FSELn. -/
def getFsel (b : FselBank) (n : Fin 6) : Word :=
  match n with
  | 0 => b.f0
  | 1 => b.f1
  | 2 => b.f2
  | 3 => b.f3
  | 4 => b.f4
  | 5 => b.f5

/-- FSELn <- v. -/
def setFsel (b : FselBank) (n : Fin 6) (v : Word) : FselBank :=
  match n with
  | 0 => { b with f0 := v }
  | 1 => { b with f1 := v }
  | 2 => { b with f2 := v }
  | 3 => { b with f3 := v }
  | 4 => { b with f4 := v }
  | 5 => { b with f5 := v }

/-! ## Pins -/

/-- 0 <= p <= 53 (R70, D5). -/
def configurablePin (p : Int) : Bool := 0 ≤ p && p < npinsConfig

/-- DrivePinCheck's condition, 0 <= p <= 31 (R73, D4). -/
def drivablePin (p : Int) : Bool := 0 ≤ p && p < npinsDrive

/-- n = p / 10 (R52). -/
def fselIndex (p : Nat) : Nat := p / pinsPerFsel

/-- off = 4 * n (R52). -/
def fselOffset (p : Nat) : Nat := 4 * fselIndex p

/-- shift = (p % 10) * 3 (R52). -/
def fieldShift (p : Nat) : Nat := p % pinsPerFsel * fselWidth

/-- field mask, 7 << shift (R54, R70). -/
def fieldMask (p : Nat) : Word := (7 : Word) <<< fieldShift p

/-- The register value with pin p's field set to output: `(old & ~(0b111 << shift)) | (FSEL_OUTPUT << shift)`
(R70). -/
def withOutputField (old : Word) (p : Nat) : Word := (old &&& ~~~ fieldMask p) ||| fselOutput <<< fieldShift p

/-- The data word of SET0 and CLR0 for one pin: `1 << p` (R55). -/
def driveMask (p : Nat) : Word := (1 : Word) <<< p

/-- Pin p's function-select field (R14, R52). -/
def pinField (b : FselBank) (p : Fin 54) : BitVec 3 :=
  (getFsel b ⟨fselIndex p.val, by have := p.isLt; simp only [fselIndex, pinsPerFsel]; omega⟩).extractLsb'
    (fieldShift p.val) 3

/-- Cycles of a blink of d ms: d / 100 for d > 0, else 0 (R77, R82). -/
def cycleCount (d : Int) : Nat := if 0 < d then (d / periodMs).toNat else 0

/-! ## Device effects and observations -/

/-- SET0's effect: OUT[i] <- 1 for every i in 0..31 with v[i] = 1 (R17). -/
def setBits (out : BitVec 54) (v : Word) : BitVec 54 := out ||| v.setWidth 54

/-- CLR0's effect: OUT[i] <- 0 for every i in 0..31 with v[i] = 1 (R18). -/
def clearBits (out : BitVec 54) (v : Word) : BitVec 54 := out &&& ~~~ v.setWidth 54

/-- LEVEL(p) (R20): the level the block drives on pin p, or none where its function is not output
("undriven"). An observation, no operation. -/
def State.level (s : State) (p : Fin 54) : Option Bool :=
  if pinField s.fsel p = 1 then some (s.out.getLsbD p.val) else none

/-- The byte of the window's stored registers at an offset, little-endian (R41, D21); none where no register
stores a value (R13, R36). An observation, no access. -/
def State.windowByte (s : State) (off : Nat) : Option Byte :=
  if h : off / 4 < 6 then some ((getFsel s.fsel ⟨off / 4, h⟩).extractLsb' (8 * (off % 4)) 8) else none

/-- The physical address of a window offset (R32). -/
def State.physicalAddress (s : State) (off : Nat) : Nat := s.params.physBase + off

/-- The mapped address of a window offset, while map = Mapped (R22, R32). -/
def State.mappedAddress (s : State) (off : Nat) : Option Nat :=
  if s.map = .mapped then some (s.vbase + off) else none

end Sys2Proof.Machine
end

