-- ==== Sys2Proof/Machine/Ops.lean ====
section
/-!
DEFINITION. The named operations every meaning is made of: recording an event, entering a fault (R114), recording
an error (R95), answering a caller, and the two accesses of the register window with their checks (R35, R67, R68).
-/
namespace Sys2Proof.Machine

/-- `Emit(e)` (R9, R27). -/
def emit (e : Event) (s : State) : State := { s with trace := s.trace ++ [e] }

/-- Entering a fault, the one shared operation (R9, R114, R122): `(code, value)` joins the sticky fault set. Nothing
is saved, no mode changes and control goes to no handler (R114); the operation that raises it does nothing more. -/
def raiseFault (code : FaultCode) (value : FaultValue) (s : State) : State :=
  { s with faults := if ⟨code, value⟩ ∈ s.faults then s.faults else s.faults ++ [⟨code, value⟩] }

/-- RecordError (R95): the text replaces the old one, cut at ERR_CAP, and the trace gets `Err(msg)`. -/
def recordError (msg : List Byte) (s : State) : State :=
  emit (.err msg) { s with lastErr := msg.take errCap }

/-- What the caller gets back (R102; log 11). -/
def reply (r : Reply) (s : State) : State := { s with replies := s.replies ++ [r] }

/-- The state an operation ends in. -/
def resState {α : Type} : Res α → State
  | .done _ s => s
  | .raised s => s

/-- One operation after another: nothing more after a fault (R9, R114). -/
def andThen {α β : Type} (r : Res α) (k : α → State → Res β) : Res β :=
  match r with
  | .done a s => k a s
  | .raised s => .raised s

/-- The Executor is free: no blink runs and nothing is held (R86, R104). -/
def executorFree (s : State) : Bool := s.seq = .idle && s.held = []

/-- A WRITE or a command waits until the running one has returned (R104). -/
def hold (h : Held) (s : State) : State := { s with held := s.held ++ [h] }

/-! ## Window accesses -/

/-- Items 1 to 4 of R35, in order: the register an access at byte offset `off` reaches, or the first fault. -/
def selectRegister (off : Int) (s : State) : Except FaultCode RegName :=
  if s.map ≠ .mapped then .error .notMapped
  else if off % 4 ≠ 0 then .error .misaligned
  else if ¬ (0 ≤ off ∧ off < s.params.windowLen) then .error .outOfWindow
  else
    match regAt off with
    | none => .error .undefinedRegister
    | some r => .ok r

/-- The stored value of a register; SET0 and CLR0 store nothing (R13, R17, R18). -/
def regValue (r : RegName) (s : State) : Option Word :=
  match r with
  | .fsel n => some (getFsel s.fsel n)
  | .set0 => none
  | .clr0 => none

/-- The device effect of a register write (R17, R18, R38, R68). -/
def writeReg (r : RegName) (v : Word) (s : State) : State :=
  match r with
  | .fsel n => { s with fsel := setFsel s.fsel n v }
  | .set0 => { s with out := setBits s.out v }
  | .clr0 => { s with out := clearBits s.out v }

/-- ReadWord(off) (R9, R67), with item 5 of R35: a read of SET0 or CLR0 faults. -/
def readReg (off : Int) (s : State) : Res Word :=
  match selectRegister off s with
  | .error code => .raised (raiseFault code (.off off) s)
  | .ok r =>
    match regValue r s with
    | none => .raised (raiseFault .writeOnlyRead (.off off) s)
    | some v => .done v (emit (.rd (regOffset r) v) s)

/-- WriteWord(off, v) (R9, R68): the device effect and the event, in one atomic step (R37, R40). -/
def writeWindow (off : Int) (v : Word) (s : State) : Res Unit :=
  match selectRegister off s with
  | .error code => .raised (raiseFault code (.off off) s)
  | .ok r => .done () (emit (.wr (regOffset r) v) (writeReg r v s))

/-- The step of an operation that gives its caller nothing back. -/
def finish {α : Type} (r : Res α) : Host.Outcome State Fault Refusal := .next (resState r)

/-- The step of a register read: the value goes to the caller (R67). -/
def finishRead (r : Res Word) : Host.Outcome State Fault Refusal :=
  match r with
  | .done v s => .next (reply (.word v) s)
  | .raised s => .next s

end Sys2Proof.Machine
end

