-- ==== Sys2Proof/Machine/RegisterAccess.lean ====
section
/-!
DEFINITION. The Register Access Layer (40_register_access.md): MAP, UNMAP, READ_WORD, WRITE_WORD, and the BUS rows
(R51), which are the same two accesses with the offset fixed.
-/
namespace Sys2Proof.Machine

/-- MAP (R65): the result is the environment's reason where it refuses (E_MAP). -/
def mapWindow (s : State) : Res (Option MapReason) :=
  if s.map ≠ .preMap then .raised (raiseFault .doubleMap (.map s.map) s)
  else
    match s.params.mapGrant with
    | .granted base => .done none (emit (.mapAnswered true) { s with map := .mapped, vbase := base })
    | .refused reason => .done (some reason) (emit (.mapAnswered false) { s with map := .mapFailed })

/-- UNMAP (R66). -/
def unmapWindow (s : State) : Res Unit :=
  if s.map ≠ .mapped then .raised (raiseFault .doubleUnmap (.map s.map) s)
  else if s.seq ≠ .idle then .raised (raiseFault .busy (.seq s.seq) s)
  else .done () (emit .unmapped { s with map := .unmapped })

/-! ## OP rows -/

/-- MAP (R65). Called on its own, its caller gets E_MAP with the reason where the environment refuses (log 21). -/
def execMap (s : State) : Host.Outcome State Fault Refusal :=
  match mapWindow s with
  | .done (some reason) t => .next (reply (.error .eMap (some reason)) t)
  | .done none t => .next t
  | .raised t => .next t

/-- UNMAP (R66). -/
def execUnmap (s : State) : Host.Outcome State Fault Refusal := finish (unmapWindow s)

/-- READ_WORD(off) (R67). -/
def execReadWord (off : Int) (s : State) : Host.Outcome State Fault Refusal := finishRead (readReg off s)

/-- WRITE_WORD(off, v) (R68). -/
def execWriteWord (off : Int) (v : Word) (s : State) : Host.Outcome State Fault Refusal :=
  finish (writeWindow off v s)

/-! ## BUS rows (R51). The data field of a read is what the device returns, so a read ignores the field of the
request (log 13). -/

def execBusRdFsel0 (_data : Word) (s : State) : Host.Outcome State Fault Refusal := finishRead (readReg 0x00 s)
def execBusRdFsel1 (_data : Word) (s : State) : Host.Outcome State Fault Refusal := finishRead (readReg 0x04 s)
def execBusRdFsel2 (_data : Word) (s : State) : Host.Outcome State Fault Refusal := finishRead (readReg 0x08 s)
def execBusRdFsel3 (_data : Word) (s : State) : Host.Outcome State Fault Refusal := finishRead (readReg 0x0C s)
def execBusRdFsel4 (_data : Word) (s : State) : Host.Outcome State Fault Refusal := finishRead (readReg 0x10 s)
def execBusRdFsel5 (_data : Word) (s : State) : Host.Outcome State Fault Refusal := finishRead (readReg 0x14 s)
def execBusWrFsel0 (data : Word) (s : State) : Host.Outcome State Fault Refusal := finish (writeWindow 0x00 data s)
def execBusWrFsel1 (data : Word) (s : State) : Host.Outcome State Fault Refusal := finish (writeWindow 0x04 data s)
def execBusWrFsel2 (data : Word) (s : State) : Host.Outcome State Fault Refusal := finish (writeWindow 0x08 data s)
def execBusWrFsel3 (data : Word) (s : State) : Host.Outcome State Fault Refusal := finish (writeWindow 0x0C data s)
def execBusWrFsel4 (data : Word) (s : State) : Host.Outcome State Fault Refusal := finish (writeWindow 0x10 data s)
def execBusWrFsel5 (data : Word) (s : State) : Host.Outcome State Fault Refusal := finish (writeWindow 0x14 data s)
def execBusWrSet0 (data : Word) (s : State) : Host.Outcome State Fault Refusal := finish (writeWindow offSet0 data s)
def execBusWrClr0 (data : Word) (s : State) : Host.Outcome State Fault Refusal := finish (writeWindow offClr0 data s)

end Sys2Proof.Machine
end

