-- ==== Sys2Proof/Machine/PinController.lean ====
section
/-!
DEFINITION. The Pin Controller (41_pin_controller.md): CONFIGURE_AS_OUTPUT, SET, CLEAR and DrivePinCheck.
-/
namespace Sys2Proof.Machine

/-- DrivePinCheck(p) (R73). -/
def drivePinCheck (p : Int) (s : State) : Res Unit :=
  if drivablePin p then .done () s else .raised (raiseFault .pinRange (.pin p) s)

/-- CONFIGURE_AS_OUTPUT(p) (R70): a read and a write of FSEL[p/10], two events (R44). -/
def configureAsOutput (p : Int) (s : State) : Res Unit :=
  if configurablePin p then
    andThen (readReg (fselOffset p.toNat) s) fun old t =>
      writeWindow (fselOffset p.toNat) (withOutputField old p.toNat) t
  else .raised (raiseFault .pinRange (.pin p) s)

/-- SET(p) (R71). -/
def setPin (p : Int) (s : State) : Res Unit :=
  andThen (drivePinCheck p s) fun _ t => writeWindow offSet0 (driveMask p.toNat) t

/-- CLEAR(p) (R72). -/
def clearPin (p : Int) (s : State) : Res Unit :=
  andThen (drivePinCheck p s) fun _ t => writeWindow offClr0 (driveMask p.toNat) t

/-- CONFIGURE_AS_OUTPUT(p) (R70). -/
def execConfigureAsOutput (p : Int) (s : State) : Host.Outcome State Fault Refusal := finish (configureAsOutput p s)

/-- SET(p) (R71). -/
def execSet (p : Int) (s : State) : Host.Outcome State Fault Refusal := finish (setPin p s)

/-- CLEAR(p) (R72). -/
def execClear (p : Int) (s : State) : Host.Outcome State Fault Refusal := finish (clearPin p s)

end Sys2Proof.Machine
end

