-- ==== Sys2Proof/Machine/BlinkSequencer.lean ====
section
/-!
DEFINITION. The Blink Sequencer (42_blink_sequencer.md): BLINK, the sequencer step and DELAY.
-/
namespace Sys2Proof.Machine

/-- DELAY(ms) (R79): the event; the model has no clock (R5, R135). -/
def delay (ms : Nat) (s : State) : State := emit (.dly ms) s

/-- BLINK(p, d) (R77): the sequencer is set to the first phase, unless there are no cycles. -/
def startBlink (p : Int) (d : Int) (s : State) : Res Unit :=
  if s.seq ≠ .idle then .raised (raiseFault .busy (.seq s.seq) s)
  else
    andThen (drivePinCheck p s) fun _ t =>
      if cycleCount d = 0 then .done () t
      else .done () { t with seq := .blinking (Fin.ofNat 32 p.toNat) (cycleCount d) .setHigh }

/-- The end of a sequence: seq is Idle again, and the WRITE that started it returns its count (R78, R86, R91). -/
def endBlink (s : State) : State :=
  match s.writing with
  | none => { s with seq := .idle }
  | some n => reply (.count n) { s with seq := .idle, writing := none }

/-- A write of a Set phase that faults ends the blink: it is abandoned, no phase is repeated, and a WRITE that started
it gets nothing back (R9, R111; what seq then holds is DEDUCED, log 33). -/
def abandonOnFault (r : Res Unit) : Res Unit :=
  match r with
  | .done a s => .done a s
  | .raised s => .raised { s with seq := .idle, writing := none }

/-- One sequencer step (R78). -/
def sequencerStep (s : State) : Res Unit :=
  match s.seq with
  | .idle => .done () s
  | .blinking p r .setHigh =>
    andThen (abandonOnFault (writeWindow offSet0 (driveMask p.val) s)) fun _ t =>
      .done () { t with seq := .blinking p r .waitHigh }
  | .blinking p r .waitHigh => .done () { delay phaseMs s with seq := .blinking p r .setLow }
  | .blinking p r .setLow =>
    andThen (abandonOnFault (writeWindow offClr0 (driveMask p.val) s)) fun _ t =>
      .done () { t with seq := .blinking p r .waitLow }
  | .blinking p r .waitLow =>
    if r = 1 then .done () (endBlink (delay phaseMs s))
    else .done () { delay phaseMs s with seq := .blinking p (r - 1) .setHigh }

/-- BLINK(p, d) (R77). -/
def execBlink (p : Int) (d : Int) (s : State) : Host.Outcome State Fault Refusal := finish (startBlink p d s)

/-- DELAY(ms) (R79). -/
def execDelay (ms : Nat) (s : State) : Host.Outcome State Fault Refusal := .next (delay ms s)

end Sys2Proof.Machine
end

