-- ==== Sys2Proof/Machine/CommandPort.lean ====
section
/-!
DEFINITION. The Command Interpreter (43_command_port.md): dispatch (R88) and the five command rows.
-/
namespace Sys2Proof.Machine

/-- The operation of an action (R88, R89 to R91). -/
def dispatch (a : Action) (p : Int) (s : State) : Res Unit :=
  match a with
  | .on => setPin p s
  | .off => clearPin p s
  | .blink => startBlink p blinkCmdMs s

/-- Interpret (R88), after Parse: the order is format, action, pin range, operation. -/
def interpret (r : Parsed) (s : State) : Res Unit :=
  match r with
  | .malformed => .done () (recordError formatMessage s)                  -- R93
  | .ok p token =>
    match actionOf token with
    | none => .done () (recordError (actionMessage token) s)              -- R92
    | some a =>
      if drivablePin p then dispatch a p s
      else .done () (recordError pinMessage s)                            -- R94

/-- A command reaches the Executor (R86, R97, R104): refused while the channel is not offered, held while the
Executor is busy, else interpreted at once (log 10). -/
def commandEntry (r : Parsed) (s : State) : Host.Outcome State Fault Refusal :=
  if s.map ≠ .mapped then .refused .channelNotOffered
  else if executorFree s then finish (interpret r s)
  else .next (hold (.command r) s)

/-- CMD_ON (R89). -/
def execCmdOn (p : Int) (s : State) : Host.Outcome State Fault Refusal := commandEntry (.ok p (tokenOf .on)) s

/-- CMD_OFF (R90). -/
def execCmdOff (p : Int) (s : State) : Host.Outcome State Fault Refusal := commandEntry (.ok p (tokenOf .off)) s

/-- CMD_BLINK (R91). -/
def execCmdBlink (p : Int) (s : State) : Host.Outcome State Fault Refusal :=
  commandEntry (.ok p (tokenOf .blink)) s

/-- CMD_UNKNOWN (R92). -/
def execCmdUnknown (p : Int) (token : List Byte) (s : State) : Host.Outcome State Fault Refusal :=
  commandEntry (.ok p token) s

/-- CMD_MALFORMED (R93). -/
def execCmdMalformed (s : State) : Host.Outcome State Fault Refusal := commandEntry .malformed s

end Sys2Proof.Machine
end

