-- ==== Sys2Proof/Machine/HostChannel.lean ====
section
/-!
DEFINITION. The Command Channel (44_host_channel.md): OPEN, WRITE, READ, CLOSE, and the Executor taking up what
was held (R104).
-/
namespace Sys2Proof.Machine

/-- A WRITE in progress, from its copy on (R86, R99, R103): a copy fault is returned and nothing is parsed; else the
command runs, and the count is returned now, or when the blink it started has ended. -/
def runWrite (buf : List Byte) (copyInOk : Bool) (s : State) : State :=
  if copyInOk then
    match interpret (parse (effectiveText buf)) s with
    | .raised t => t
    | .done _ t =>
      if t.seq = .idle then reply (.count buf.length) t else { t with writing := some buf.length }
  else reply (.error .eCopyIn none) s

/-- The Executor takes up a held WRITE or command (R97, R104). -/
def runHeld (h : Held) (s : State) : Host.Outcome State Fault Refusal :=
  if s.map ≠ .mapped then .refused .channelNotOffered
  else
    match h with
    | .write buf ok => .next (runWrite buf ok s)
    | .command r => finish (interpret r s)

/-- The bytes a READ gives back (R100): from `off`, at most `maxLen`, none at or past the end. -/
def readSlice (text : List Byte) (maxLen : Nat) (off : Nat) : List Byte := (text.drop off).take maxLen

/-- OPEN (R98). -/
def execOpen (s : State) : Host.Outcome State Fault Refusal :=
  if s.map ≠ .mapped then .refused .channelNotOffered else .next (reply .ok s)

/-- WRITE (R99, R104). -/
def execWrite (buf : List Byte) (copyInOk : Bool) (s : State) : Host.Outcome State Fault Refusal :=
  if s.map ≠ .mapped then .refused .channelNotOffered
  else if executorFree s then .next (runWrite buf copyInOk s)
  else .next (hold (.write buf copyInOk) s)

/-- READ (R100): where no byte is copied, no copy can fault. -/
def execRead (maxLen : Nat) (off : Int) (copyOutOk : Bool) (s : State) : Host.Outcome State Fault Refusal :=
  if s.map ≠ .mapped then .refused .channelNotOffered
  else if off < 0 then .refused .negativeOffset
  else if s.lastErr.length ≤ off.toNat ∨ maxLen = 0 then .next (reply (.bytes []) s)
  else if copyOutOk then .next (reply (.bytes (readSlice s.lastErr maxLen off.toNat)) s)
  else .next (reply (.error .eCopyOut none) s)

/-- CLOSE (R101). -/
def execClose (s : State) : Host.Outcome State Fault Refusal :=
  if s.map ≠ .mapped then .refused .channelNotOffered else .next (reply .ok s)

end Sys2Proof.Machine
end

