-- ==== Sys2Proof/Machine/Lifecycle.lean ====
section
/-!
DEFINITION. The lifecycle (70_reset_and_hazards.md): STARTUP and SHUTDOWN.
-/
namespace Sys2Proof.Machine

/-- An operation on each pin of a list, in order. -/
def forEachPin (op : Int → State → Res Unit) : List (Fin 32) → State → Res Unit
  | [], s => .done () s
  | q :: qs, s => andThen (op q.val s) fun _ t => forEachPin op qs t

/-- STARTUP (R123): one step (R5); the channel is offered by map = Mapped (R97). -/
def execStartup (s : State) : Host.Outcome State Fault Refusal :=
  match mapWindow s with
  | .raised t => .next t
  | .done (some reason) t => .next (reply (.error .eMap (some reason)) t)
  | .done none t =>
    match forEachPin configureAsOutput t.params.ledPins.list t with
    | .raised u => .next u
    | .done _ u => .next (reply .ok u)

/-- SHUTDOWN (R124): one step (R5). Without a mapped window it faults as UNMAP does, before any access (the Host never
sends it then, `excludedByHostDuty`; log 16); while a blink or a WRITE is running or held it has no move (R102;
log 17). -/
def execShutdown (s : State) : Host.Outcome State Fault Refusal :=
  if s.map ≠ .mapped then .next (raiseFault .doubleUnmap (.map s.map) s)
  else if executorFree s then
    match andThen (forEachPin clearPin s.params.ledPins.list s) fun _ t => unmapWindow t with
    | .raised u => .next u
    | .done _ u => .next (reply .ok u)
  else .refused .shutdownNotIdle

end Sys2Proof.Machine
end

