-- ==== Sys2Proof/Machine/Dispatch.lean ====
section
/-!
DEFINITION. exec: one arm per constructor of Instr, each a direct call of the instruction's meaning.
-/
namespace Sys2Proof.Machine
open Sys2Proof

def exec (i : Instr) (s : State) : Host.Outcome State Fault Refusal :=
  match i with
  | .busRdFsel0 d => Sys2Proof.Machine.execBusRdFsel0 d s
  | .busRdFsel1 d => Sys2Proof.Machine.execBusRdFsel1 d s
  | .busRdFsel2 d => Sys2Proof.Machine.execBusRdFsel2 d s
  | .busRdFsel3 d => Sys2Proof.Machine.execBusRdFsel3 d s
  | .busRdFsel4 d => Sys2Proof.Machine.execBusRdFsel4 d s
  | .busRdFsel5 d => Sys2Proof.Machine.execBusRdFsel5 d s
  | .busWrFsel0 d => Sys2Proof.Machine.execBusWrFsel0 d s
  | .busWrFsel1 d => Sys2Proof.Machine.execBusWrFsel1 d s
  | .busWrFsel2 d => Sys2Proof.Machine.execBusWrFsel2 d s
  | .busWrFsel3 d => Sys2Proof.Machine.execBusWrFsel3 d s
  | .busWrFsel4 d => Sys2Proof.Machine.execBusWrFsel4 d s
  | .busWrFsel5 d => Sys2Proof.Machine.execBusWrFsel5 d s
  | .busWrSet0 d => Sys2Proof.Machine.execBusWrSet0 d s
  | .busWrClr0 d => Sys2Proof.Machine.execBusWrClr0 d s
  | .map => Sys2Proof.Machine.execMap s
  | .unmap => Sys2Proof.Machine.execUnmap s
  | .readWord off => Sys2Proof.Machine.execReadWord off s
  | .writeWord off v => Sys2Proof.Machine.execWriteWord off v s
  | .configureAsOutput p => Sys2Proof.Machine.execConfigureAsOutput p s
  | .set p => Sys2Proof.Machine.execSet p s
  | .clear p => Sys2Proof.Machine.execClear p s
  | .blink p d => Sys2Proof.Machine.execBlink p d s
  | .delay ms => Sys2Proof.Machine.execDelay ms s
  | .cmdOn p => Sys2Proof.Machine.execCmdOn p s
  | .cmdOff p => Sys2Proof.Machine.execCmdOff p s
  | .cmdBlink p => Sys2Proof.Machine.execCmdBlink p s
  | .cmdUnknown p token => Sys2Proof.Machine.execCmdUnknown p token s
  | .cmdMalformed => Sys2Proof.Machine.execCmdMalformed s
  | .openChannel => Sys2Proof.Machine.execOpen s
  | .write buf ok => Sys2Proof.Machine.execWrite buf ok s
  | .read maxLen off ok => Sys2Proof.Machine.execRead maxLen off ok s
  | .closeChannel => Sys2Proof.Machine.execClose s
  | .startup => Sys2Proof.Machine.execStartup s
  | .shutdown => Sys2Proof.Machine.execShutdown s

end Sys2Proof.Machine
end

