-- ==== Sys2Proof/Machine/Schedule.lean ====
section
/-!
DEFINITION. Which agent moves next and what a request that is no operation does (R10, R25, R51, R80, R104).
-/
namespace Sys2Proof.Machine

/-- Requests that wait for the Executor to be free (R80, R86, R124): the operations the Executor performs itself (BUS
and OP level), STARTUP and SHUTDOWN. That they wait, STARTUP among them, is the model's choice (DEDUCED, log 9). A WRITE
or a command is taken at once and held by its meaning. -/
def waitsForExecutor (c : Code) : Bool :=
  c.level = .bus || c.level = .op || (c.level = .host && (c.bytes = nameStartup || c.bytes = nameShutdown))

/-- Host requests that are assumed never to happen and have no move (R102): a second STARTUP, and a SHUTDOWN before
STARTUP, after a failed one or after SHUTDOWN. Run by themselves their meanings fault (R123, R124; log 16). -/
def excludedByHostDuty (i : Instr) (s : State) : Bool :=
  (i = .startup && s.map ≠ .preMap) || (i = .shutdown && s.map ≠ .mapped)

/-- The next move. With no turn left, or while the next request waits, the Executor moves. -/
def nextMove (s : State) : Move :=
  match s.agenda with
  | [] => .executor s
  | .executor :: rest => .executor { s with agenda := rest }
  | .request c :: rest =>
    if waitsForExecutor c && !executorFree s then .executor s
    else
      match decode c with
      | .ok i => if excludedByHostDuty i s then .refuse .excludedRequest else .run i { s with agenda := rest }
      | .error e => .reject e { s with agenda := rest }

/-- The Executor's own step: a sequencer step while a blink runs (R78, R80), else the oldest held WRITE or command
(R104), else nothing: the block waits for the Host (log 7). -/
def executorMove (s : State) : Host.Outcome State Fault Refusal :=
  if s.seq ≠ .idle then finish (sequencerStep s)
  else
    match s.held with
    | [] => .next s
    | h :: rest => runHeld h { s with held := rest }

/-- A request that is no operation. A BUS value that matches no row is performed as the access it names, which faults
by R35 (R51, R61 b; log 14); the rest has no meaning. -/
def rejectRequest (e : DecodeError) (s : State) : Host.Outcome State Fault Refusal :=
  match e with
  | .busNoRow isWrite off data =>
    if isWrite then finish (writeWindow off.toNat data s) else finishRead (readReg off.toNat s)
  | .busWidth => .refused .accessWidth
  | .noSuchOperation => .refused .notARequest
  | .noSuchRequest => .refused .notARequest

/-- A BUS word placed as the very next request, with the Executor free to take it (log 6). -/
def placeWord (s : State) (nbits w : Nat) : State :=
  { s with agenda := .request ⟨.bus, tableWordBytes nbits w⟩ :: s.agenda, seq := .idle, held := [], writing := none }

end Sys2Proof.Machine
end

