-- ==== Sys2Proof/Machine/Step.lean ====
section
/-!
DEFINITION. One step of the machine (R5, R10).
-/
namespace Sys2Proof.Machine

/-- One step: the next request runs or has no move, or the Executor moves, or a request that is no operation is
answered. -/
def step (s : State) : Host.Outcome State Fault Refusal :=
  match nextMove s with
  | .run i t => exec i t
  | .executor t => executorMove t
  | .reject e t => rejectRequest e t
  | .refuse r => .refused r

/-- `s` with the instruction whose bits are `w` as its next request, so that the next step runs it (log 6). -/
def State.withFetchWord (s : State) (nbits w : Nat) : State := placeWord s nbits w

end Sys2Proof.Machine
end

