-- ==== Sys2Proof/Safety.lean ====
section
/-!
DEFINITION. What counts as a good state and a finished run, in the terms claims use: the invariant of the state,
the legal fault records (R107), the finished states (R136), the trace replayed on the device (R27, R40, R42), and the
grammar of a command (R56 to R58).
-/
namespace Sys2Proof.Machine

/-! ## The invariant -/

/-- `remaining` is at least 1 while a blink runs (R24). -/
abbrev SeqState.Ok : SeqState → Prop
  | .idle => True
  | .blinking _ r _ => 1 ≤ r

/-- The invariant: lastErr holds at most ERR_CAP bytes (R23), the fault set has no repeats (R28), `remaining` is at
least 1 (R24), a WRITE is in progress only while its blink runs (R86), and the LED pins are distinct (R6). -/
abbrev State.Inv (s : State) : Prop :=
  s.lastErr.length ≤ errCap ∧ s.faults.Nodup ∧ s.seq.Ok ∧ (s.writing = none ∨ s.seq ≠ .idle) ∧
    s.params.ledPins.Distinct

/-! ## Fault records -/

/-- The offset an access may have: inside the window (R32, R35). -/
abbrev InWindow (p : Params) (off : Int) : Prop := 0 ≤ off ∧ off < p.windowLen

/-- What R107 says of each code: the kind of value recorded and the cause it stands for. -/
def FaultRecord.Legal (p : Params) (f : FaultRecord) : Prop :=
  match f.code, f.value with
  | .notMapped, .off _ => True
  | .misaligned, .off off => off % 4 ≠ 0
  | .outOfWindow, .off off => off % 4 = 0 ∧ ¬ InWindow p off
  | .undefinedRegister, .off off => off % 4 = 0 ∧ InWindow p off ∧ regAt off = none
  | .writeOnlyRead, .off off => off = 0x1C ∨ off = 0x28
  | .pinRange, .pin q => ¬ (0 ≤ q ∧ q ≤ 31)
  | .doubleMap, .map m => m ≠ .preMap
  | .doubleUnmap, .map m => m ≠ .mapped
  | .busy, .seq q => q ≠ .idle
  | _, _ => False

/-! ## Finished states (R136) -/

/-- (a) After SHUTDOWN. -/
def State.shutDown (s : State) : Prop := s.map = .unmapped ∧ s.seq = .idle ∧ s.faults = []

/-- (b) Quiescent: mapped, idle, no fault, nothing held, no further request. Turns left to the Executor are no request
of the Host, so they may remain (the model's choice, log 7). -/
def State.quiescent (s : State) : Prop :=
  s.map = .mapped ∧ s.seq = .idle ∧ s.faults = [] ∧ s.held = [] ∧ ∀ x ∈ s.agenda, x = Turn.executor

/-- A finished failed startup; as in every finished state, no blink is in flight. -/
def State.failedStartup (s : State) : Prop := s.map = .mapFailed ∧ s.seq = .idle ∧ s.faults = []

/-- A run is finished (R136): a blink in flight or a recorded fault never is. -/
def State.finished (s : State) : Prop := s.shutDown ∨ s.quiescent ∨ s.failedStartup

/-! ## The trace replayed on the device -/

/-- What the events of a trace act on. -/
structure Device where
  map     : MapState
  fsel    : FselBank
  out     : BitVec 54
  lastErr : List Byte
deriving DecidableEq, Repr

/-- The device part of a state. -/
def State.device (s : State) : Device := ⟨s.map, s.fsel, s.out, s.lastErr⟩

/-- The effect of one event (R17, R18, R21, R27, R38, R95), if it can happen: a read must show the stored value, an
access needs a mapped window and a register, the map events follow R21. -/
def applyEvent (d : Device) (e : Event) : Option Device :=
  match e with
  | .rd off v =>
    match regAt off with
    | some (.fsel n) => if d.map = .mapped ∧ v = getFsel d.fsel n then some d else none
    | _ => none
  | .wr off v =>
    if d.map = .mapped then
      match regAt off with
      | some (.fsel n) => some { d with fsel := setFsel d.fsel n v }
      | some .set0 => some { d with out := setBits d.out v }
      | some .clr0 => some { d with out := clearBits d.out v }
      | none => none
    else none
  | .dly _ => some d
  | .mapAnswered true => if d.map = .preMap then some { d with map := .mapped } else none
  | .mapAnswered false => if d.map = .preMap then some { d with map := .mapFailed } else none
  | .unmapped => if d.map = .mapped then some { d with map := .unmapped } else none
  | .err msg => some { d with lastErr := msg.take errCap }

/-- Events in order. -/
def replay (d : Device) : List Event → Option Device
  | [] => some d
  | e :: es => (applyEvent d e).bind fun d' => replay d' es

/-! ## A blink's events -/

/-- `Wr(0x1C, 1<<p), Dly(50), Wr(0x28, 1<<p), Dly(50)` (R84). -/
def blinkCycle (p : Fin 32) : List Event :=
  [.wr 0x1C (driveMask p.val), .dly 50, .wr 0x28 (driveMask p.val), .dly 50]

/-- c repetitions of a cycle (R84). -/
def blinkEvents (p : Fin 32) : Nat → List Event
  | 0 => []
  | c + 1 => blinkCycle p ++ blinkEvents p c

/-- `k` steps of the Executor's own (R78, R104), whatever the agenda holds, stopping where one has no move. -/
def executorRun : Nat → State → Host.Outcome State Fault Refusal
  | 0, s => .next s
  | k + 1, s =>
    match executorMove s with
    | .next t => executorRun k t
    | .fault f => .fault f
    | .refused r => .refused r

/-- What was held, as the operation it is: a WRITE, or the command row of a parsed text (R60, R104). -/
def heldInstr : Held → Instr
  | .write buf ok => .write buf ok
  | .command r => commandOf r

/-- The sequencer state after the action of a phase (R78). -/
def nextPhase (p : Fin 32) (r : Nat) : Phase → SeqState
  | .setHigh => .blinking p r .waitHigh
  | .waitHigh => .blinking p r .setLow
  | .setLow => .blinking p r .waitLow
  | .waitLow => if r = 1 then .idle else .blinking p (r - 1) .setHigh

/-! ## The grammar of a command -/

/-- The sign of the pin field (R56): none, "+" or "-". -/
inductive PinSign where
  | none | plus | minus
deriving DecidableEq, Repr

/-- The sign's text. -/
def PinSign.text : PinSign → List Byte
  | .none => []
  | .plus => [0x2B]
  | .minus => [0x2D]

/-- The sign's effect on the value of the digits (R57). -/
def PinSign.apply : PinSign → Nat → Int
  | .none, n => n
  | .plus, n => n
  | .minus, n => -n

/-- `command = *WS pin ":" *WS token rest` (R56 to R58): the text is a command with pin field P and token T. The token
is the first 1 to 9 NWS bytes, so it is cut only by the end, by a WS byte or at nine bytes. -/
def IsCommand (t : List Byte) (P : Int) (T : List Byte) : Prop :=
  ∃ (ws1 digits ws2 rest : List Byte) (sign : PinSign),
    t = ws1 ++ sign.text ++ digits ++ 0x3A :: (ws2 ++ T ++ rest) ∧
    ws1.all isWs ∧ ws2.all isWs ∧
    digits ≠ [] ∧ digits.all isDigit ∧ P = sign.apply (decimalValue digits) ∧
    T ≠ [] ∧ T.length ≤ 9 ∧ T.all isNws ∧
    (T.length = 9 ∨ rest = [] ∨ ∃ b tail, rest = b :: tail ∧ isWs b)

end Sys2Proof.Machine
end

