-- ==== Sys2Proof/Certificates/Slice0/Obligations.lean ====
section
/-!
DEFINITION. The statements about the block, each with the rule of spec/ it formalises. An equation
`exec i s = .next { s with … }` is a result, a completion and a frame at once: every field not named in it is
unchanged.
-/
open Sys2Proof Sys2Proof.Machine

/-! ## Launch and the whole machine -/

/-- 10_state.md section 10: the launch values, for every parameter and every draw; the interface's reset state is a
launch state (its zero draws are the model's choice, log 4; vbase = 0 is log 5 and not stated). -/
def Obligations.LaunchState : Prop :=
  (∀ (p : Params) (f : FselBank) (o : BitVec 54),
    (State.launch p f o).map = .preMap ∧ (State.launch p f o).fsel = f ∧ (State.launch p f o).out = o ∧
    (State.launch p f o).lastErr = [] ∧ (State.launch p f o).seq = .idle ∧ (State.launch p f o).trace = [] ∧
    (State.launch p f o).faults = []) ∧
  ∃ f o, State.reset = State.launch Config.params f o

/-- The invariant holds at launch for every legal triple of LED pins, and at reset. -/
def Obligations.InvariantAtLaunch : Prop :=
  (∀ (p : Params) (f : FselBank) (o : BitVec 54), p.ledPins.Distinct → (State.launch p f o).Inv) ∧ State.reset.Inv

/-- R23, R24, R28: the invariant is kept by every step, and no step writes a parameter (R6, R30). -/
def Obligations.StepKeepsStateInvariant : Prop :=
  ∀ s t : State, s.Inv → step s = .next t → t.Inv ∧ t.params = s.params

/-- R28: the fault set is empty at launch, no step removes a member, and a faulted state is never finished. -/
def Obligations.FaultSetOnlyGrows : Prop :=
  (∀ p f o, (State.launch p f o).faults = []) ∧
  (∀ s t : State, step s = .next t → ∀ x ∈ s.faults, x ∈ t.faults) ∧
  (∀ s : State, s.faults ≠ [] → ¬ s.finished)

/-- R107: from a state whose recorded faults have the value and the cause the table gives, a step leads to such a state;
and a record that the step adds has the state's own part of its cause: F_NOT_MAPPED only while map is not Mapped, and a
recorded map or seq is the one the step found. -/
def Obligations.FaultRecordsStayLegal : Prop :=
  ∀ s t : State, step s = .next t →
    ((∀ x ∈ s.faults, x.Legal s.params) → ∀ x ∈ t.faults, x.Legal t.params) ∧
    ∀ x ∈ t.faults, x ∉ s.faults →
      (x.code = .notMapped → s.map ≠ .mapped) ∧ (∀ m, x.value = .map m → m = s.map) ∧
        ∀ q, x.value = .seq q → q = s.seq

/-- R27, R40, R42: a step only appends to the trace, and the events it appends, replayed in order on the device, are
possible and give exactly the map state, the registers, the latch and the Last-Error text after the step. -/
def Obligations.DeviceFollowsTrace : Prop :=
  ∀ s t : State, step s = .next t → ∃ es, t.trace = s.trace ++ es ∧ replay s.device es = some t.device

/-- R21: map is PreMap at launch; a step leaves it or moves PreMap to Mapped or MapFailed, or Mapped to Unmapped; MAP
and UNMAP make these moves. -/
def Obligations.MapStateMoves : Prop :=
  (∀ p f o, (State.launch p f o).map = .preMap) ∧
  (∀ s t : State, step s = .next t →
    t.map = s.map ∨ (s.map = .preMap ∧ (t.map = .mapped ∨ t.map = .mapFailed)) ∨
      (s.map = .mapped ∧ t.map = .unmapped)) ∧
  (∀ s : State, s.map = .preMap → ∃ t, exec .map s = .next t ∧ (t.map = .mapped ∨ t.map = .mapFailed)) ∧
  (∀ s : State, s.map = .mapped → s.seq = .idle → ∃ t, exec .unmap s = .next t ∧ t.map = .unmapped)

/-- R19: bits 32 to 53 of OUT keep their value. -/
def Obligations.HighOutputBitsNeverChange : Prop :=
  ∀ s t : State, step s = .next t → ∀ q, 32 ≤ q → t.out.getLsbD q = s.out.getLsbD q

/-- R114, R122: entering a fault adds its record and changes nothing else. -/
def Obligations.FaultEntryAddsOneRecord : Prop :=
  ∀ (code : FaultCode) (value : FaultValue) (s : State),
    (∀ x, x ∈ (raiseFault code value s).faults ↔ x ∈ s.faults ∨ x = ⟨code, value⟩) ∧
    (s.faults.Nodup → (raiseFault code value s).faults.Nodup) ∧
    { raiseFault code value s with faults := s.faults } = s

/-! ## The Register Access Layer -/

/-- R51, R67: the BUS reads of FSEL0 to FSEL5 answer the stored word, with one event and nothing else. -/
def Obligations.BusReadsAnswerFsel : Prop :=
  ∀ (d : Word) (s : State), s.map = .mapped →
    exec (.busRdFsel0 d) s =
      .next { s with trace := s.trace ++ [.rd 0x00 s.fsel.f0], replies := s.replies ++ [.word s.fsel.f0] } ∧
    exec (.busRdFsel1 d) s =
      .next { s with trace := s.trace ++ [.rd 0x04 s.fsel.f1], replies := s.replies ++ [.word s.fsel.f1] } ∧
    exec (.busRdFsel2 d) s =
      .next { s with trace := s.trace ++ [.rd 0x08 s.fsel.f2], replies := s.replies ++ [.word s.fsel.f2] } ∧
    exec (.busRdFsel3 d) s =
      .next { s with trace := s.trace ++ [.rd 0x0C s.fsel.f3], replies := s.replies ++ [.word s.fsel.f3] } ∧
    exec (.busRdFsel4 d) s =
      .next { s with trace := s.trace ++ [.rd 0x10 s.fsel.f4], replies := s.replies ++ [.word s.fsel.f4] } ∧
    exec (.busRdFsel5 d) s =
      .next { s with trace := s.trace ++ [.rd 0x14 s.fsel.f5], replies := s.replies ++ [.word s.fsel.f5] }

/-- R38, R51, R68: the BUS writes of FSEL0 to FSEL5 store all 32 bits, with one event and nothing else. -/
def Obligations.BusWritesStoreFsel : Prop :=
  ∀ (v : Word) (s : State), s.map = .mapped →
    exec (.busWrFsel0 v) s = .next { s with fsel := { s.fsel with f0 := v }, trace := s.trace ++ [.wr 0x00 v] } ∧
    exec (.busWrFsel1 v) s = .next { s with fsel := { s.fsel with f1 := v }, trace := s.trace ++ [.wr 0x04 v] } ∧
    exec (.busWrFsel2 v) s = .next { s with fsel := { s.fsel with f2 := v }, trace := s.trace ++ [.wr 0x08 v] } ∧
    exec (.busWrFsel3 v) s = .next { s with fsel := { s.fsel with f3 := v }, trace := s.trace ++ [.wr 0x0C v] } ∧
    exec (.busWrFsel4 v) s = .next { s with fsel := { s.fsel with f4 := v }, trace := s.trace ++ [.wr 0x10 v] } ∧
    exec (.busWrFsel5 v) s = .next { s with fsel := { s.fsel with f5 := v }, trace := s.trace ++ [.wr 0x14 v] }

/-- The BUS rows before MAP and after UNMAP (R35, R130): F_NOT_MAPPED with the row's offset, and no access. -/
def Obligations.BusRowsFaultUnmapped : Prop :=
  ∀ (d : Word) (s : State), s.map ≠ .mapped →
    exec (.busRdFsel0 d) s = .next (raiseFault .notMapped (.off 0x00) s) ∧
    exec (.busRdFsel1 d) s = .next (raiseFault .notMapped (.off 0x04) s) ∧
    exec (.busRdFsel2 d) s = .next (raiseFault .notMapped (.off 0x08) s) ∧
    exec (.busRdFsel3 d) s = .next (raiseFault .notMapped (.off 0x0C) s) ∧
    exec (.busRdFsel4 d) s = .next (raiseFault .notMapped (.off 0x10) s) ∧
    exec (.busRdFsel5 d) s = .next (raiseFault .notMapped (.off 0x14) s) ∧
    exec (.busWrFsel0 d) s = .next (raiseFault .notMapped (.off 0x00) s) ∧
    exec (.busWrFsel1 d) s = .next (raiseFault .notMapped (.off 0x04) s) ∧
    exec (.busWrFsel2 d) s = .next (raiseFault .notMapped (.off 0x08) s) ∧
    exec (.busWrFsel3 d) s = .next (raiseFault .notMapped (.off 0x0C) s) ∧
    exec (.busWrFsel4 d) s = .next (raiseFault .notMapped (.off 0x10) s) ∧
    exec (.busWrFsel5 d) s = .next (raiseFault .notMapped (.off 0x14) s) ∧
    exec (.busWrSet0 d) s = .next (raiseFault .notMapped (.off 0x1C) s) ∧
    exec (.busWrClr0 d) s = .next (raiseFault .notMapped (.off 0x28) s)

/-- R17, R18: the device effects of SET0 and CLR0, bit by bit; the writes store nothing and change nothing else. -/
def Obligations.BusSetClrDriveLatch : Prop :=
  ∀ (v : Word) (s : State), s.map = .mapped →
    (∃ t, exec (.busWrSet0 v) s = .next t ∧
      (∀ i, t.out.getLsbD i = if i < 32 ∧ v.getLsbD i = true then true else s.out.getLsbD i) ∧
      t = { s with out := t.out, trace := s.trace ++ [.wr 0x1C v] }) ∧
    (∃ t, exec (.busWrClr0 v) s = .next t ∧
      (∀ i, t.out.getLsbD i = if i < 32 ∧ v.getLsbD i = true then false else s.out.getLsbD i) ∧
      t = { s with out := t.out, trace := s.trace ++ [.wr 0x28 v] }) ∧
    (∃ t u, exec (.readWord 0x1C) s = .next t ∧ t = raiseFault .writeOnlyRead (.off 0x1C) s ∧
      exec (.readWord 0x28) s = .next u ∧ u = raiseFault .writeOnlyRead (.off 0x28) s)

/-- R35, R36: the checks of a window access, in order, for reads and writes at every offset; only if all pass is the
access performed, which is one event of the trace. -/
def Obligations.WindowAccessChecks : Prop :=
  ∀ (off : Int) (v : Word) (s : State),
    let faults (i : Instr) (code : FaultCode) : Prop := exec i s = .next (raiseFault code (.off off) s)
    let performs (i : Instr) : Prop := ∃ t e, exec i s = .next t ∧ t.trace = s.trace ++ [e] ∧ t.faults = s.faults
    if s.map ≠ .mapped then
      faults (.readWord off) .notMapped ∧ faults (.writeWord off v) .notMapped
    else if off % 4 ≠ 0 then
      faults (.readWord off) .misaligned ∧ faults (.writeWord off v) .misaligned
    else if ¬ (0 ≤ off ∧ off < s.params.windowLen) then
      faults (.readWord off) .outOfWindow ∧ faults (.writeWord off v) .outOfWindow
    else if off ∉ ([0x00, 0x04, 0x08, 0x0C, 0x10, 0x14, 0x1C, 0x28] : List Int) then
      faults (.readWord off) .undefinedRegister ∧ faults (.writeWord off v) .undefinedRegister
    else if off = 0x1C ∨ off = 0x28 then
      faults (.readWord off) .writeOnlyRead ∧ performs (.writeWord off v)
    else
      performs (.readWord off) ∧ performs (.writeWord off v)

/-- R67: READ_WORD of FSELn returns its stored value, appends one event and changes nothing else. -/
def Obligations.ReadWordAnswersStoredWord : Prop :=
  ∀ (n : Fin 6) (s : State), s.map = .mapped →
    exec (.readWord (4 * n.val)) s =
      .next { s with trace := s.trace ++ [.rd (4 * n.val) (getFsel s.fsel n)],
                     replies := s.replies ++ [.word (getFsel s.fsel n)] }

/-- R68: WRITE_WORD to FSELn stores all 32 bits and leaves the other registers and the latch; to SET0 and CLR0 it has
their device effect on bits 0 to 31 and leaves every register; one event each. -/
def Obligations.WriteWordEffect : Prop :=
  ∀ (v : Word) (s : State), s.map = .mapped →
    (∀ n : Fin 6, ∃ t, exec (.writeWord (4 * n.val) v) s = .next t ∧
      getFsel t.fsel n = v ∧ (∀ m, m ≠ n → getFsel t.fsel m = getFsel s.fsel m) ∧
      t = { s with fsel := t.fsel, trace := s.trace ++ [.wr (4 * n.val) v] }) ∧
    (∃ t, exec (.writeWord 0x1C v) s = .next t ∧
      (∀ i, t.out.getLsbD i = (s.out.getLsbD i || (decide (i < 32) && v.getLsbD i))) ∧
      t = { s with out := t.out, trace := s.trace ++ [.wr 0x1C v] }) ∧
    (∃ t, exec (.writeWord 0x28 v) s = .next t ∧
      (∀ i, t.out.getLsbD i = (s.out.getLsbD i && !(decide (i < 32) && v.getLsbD i))) ∧
      t = { s with out := t.out, trace := s.trace ++ [.wr 0x28 v] })

/-- R39: the same value written twice to the same register leaves the registers and the latch as one write leaves
them, and both writes are events. -/
def Obligations.RepeatedWriteIsIdempotent : Prop :=
  ∀ (r : RegName) (v : Word) (s : State), s.map = .mapped →
    ∃ t u, exec (.writeWord (regOffset r) v) s = .next t ∧ exec (.writeWord (regOffset r) v) t = .next u ∧
      u.fsel = t.fsel ∧ u.out = t.out ∧
      u.trace = s.trace ++ [.wr (regOffset r) v, .wr (regOffset r) v] ∧ u = { t with trace := u.trace }

/-- The bytes of the window (R31, R41): WRITE_WORD to FSELn stores the four bytes of the value at 4n, the least
significant first, and every byte elsewhere reads as before; a write of SET0 or CLR0 stores no byte. -/
def Obligations.WindowBytesAfterWrite : Prop :=
  ∀ (v : Word) (s : State), s.map = .mapped →
    (∀ n : Fin 6, ∃ t, exec (.writeWord (4 * n.val) v) s = .next t ∧
      (∀ k, k < 4 → t.windowByte (4 * n.val + k) = some (v.extractLsb' (8 * k) 8)) ∧
      (∀ a, (a < 4 * n.val ∨ 4 * n.val + 4 ≤ a) → t.windowByte a = s.windowByte a)) ∧
    (∃ t, exec (.writeWord 0x1C v) s = .next t ∧ ∀ a, t.windowByte a = s.windowByte a) ∧
    (∃ t, exec (.writeWord 0x28 v) s = .next t ∧ ∀ a, t.windowByte a = s.windowByte a)

/-- R65: MAP grants, refuses with the reason, or faults F_DOUBLE_MAP before asking. -/
def Obligations.MapOutcome : Prop :=
  ∀ s : State,
    (∀ base, s.map = .preMap → s.params.mapGrant = .granted base →
      exec .map s = .next { s with map := .mapped, vbase := base, trace := s.trace ++ [.mapAnswered true] }) ∧
    (∀ reason, s.map = .preMap → s.params.mapGrant = .refused reason →
      exec .map s = .next { s with map := .mapFailed, trace := s.trace ++ [.mapAnswered false],
                                   replies := s.replies ++ [.error .eMap (some reason)] }) ∧
    (s.map ≠ .preMap → exec .map s = .next (raiseFault .doubleMap (.map s.map) s))

/-- R66: UNMAP from a mapped, idle state; F_DOUBLE_UNMAP elsewhere; F_BUSY while a blink runs. FSEL and OUT keep
their values. -/
def Obligations.UnmapOutcome : Prop :=
  ∀ s : State,
    (s.map = .mapped → s.seq = .idle →
      exec .unmap s = .next { s with map := .unmapped, trace := s.trace ++ [.unmapped] }) ∧
    (s.map ≠ .mapped → exec .unmap s = .next (raiseFault .doubleUnmap (.map s.map) s)) ∧
    (s.map = .mapped → s.seq ≠ .idle → exec .unmap s = .next (raiseFault .busy (.seq s.seq) s))

/-! ## The Pin Controller -/

/-- R70: CONFIGURE_AS_OUTPUT sets pin p's field to 1 and keeps every other bit of the register, every other register
and the latch, so that the pin drives its latched level; it is one read and one write of FSEL[p/10]; a pin outside
0..53 faults before any access, and so does an unmapped window. -/
def Obligations.ConfigureSetsOutputField : Prop :=
  (∀ (p : Fin 54) (s : State), s.map = .mapped →
    ∃ (n : Fin 6) (t : State), n.val = p.val / 10 ∧ exec (.configureAsOutput p.val) s = .next t ∧
      pinField t.fsel p = 1 ∧
      (∀ i, (i < p.val % 10 * 3 ∨ p.val % 10 * 3 + 3 ≤ i) →
        (getFsel t.fsel n).getLsbD i = (getFsel s.fsel n).getLsbD i) ∧
      (∀ m, m ≠ n → getFsel t.fsel m = getFsel s.fsel m) ∧
      t.level p = some (s.out.getLsbD p.val) ∧
      t = { s with fsel := t.fsel,
                   trace := s.trace ++ [.rd (4 * n.val) (getFsel s.fsel n), .wr (4 * n.val) (getFsel t.fsel n)] }) ∧
  (∀ (p : Int) (s : State), ¬ (0 ≤ p ∧ p ≤ 53) →
    exec (.configureAsOutput p) s = .next (raiseFault .pinRange (.pin p) s)) ∧
  (∀ (p : Fin 54) (s : State), s.map ≠ .mapped →
    exec (.configureAsOutput p.val) s = .next (raiseFault .notMapped (.off (4 * (p.val / 10 : Nat))) s))

/-- R14, R70: configuring one pin leaves the function field of every other pin, in every register. -/
def Obligations.ConfigureKeepsOtherFields : Prop :=
  ∀ (p q : Fin 54) (s : State), s.map = .mapped → q ≠ p →
    ∃ t, exec (.configureAsOutput p.val) s = .next t ∧ pinField t.fsel q = pinField s.fsel q

/-- R76: CONFIGURE_AS_OUTPUT run twice leaves FSEL[p/10] as one run leaves it; the second run reads that value and
writes it back, two more events. -/
def Obligations.ConfigureIsIdempotent : Prop :=
  ∀ (p : Fin 54) (s : State), s.map = .mapped →
    ∃ (n : Fin 6) (t u : State), n.val = p.val / 10 ∧
      exec (.configureAsOutput p.val) s = .next t ∧ exec (.configureAsOutput p.val) t = .next u ∧
      u = { t with trace := t.trace ++ [.rd (4 * n.val) (getFsel t.fsel n), .wr (4 * n.val) (getFsel t.fsel n)] }

/-- R71: SET drives pin p high with one write of `1 << p` to 0x1C, whatever the bit was; no other bit and nothing else
changes; it faults F_PIN_RANGE before any access, and F_NOT_MAPPED. -/
def Obligations.SetDrivesPinHigh : Prop :=
  (∀ (p : Fin 32) (s : State), s.map = .mapped →
    ∃ t, exec (.set p.val) s = .next t ∧
      (∀ q, t.out.getLsbD q = if q = p.val then true else s.out.getLsbD q) ∧
      t = { s with out := t.out, trace := s.trace ++ [.wr 0x1C ((1 : Word) <<< p.val)] }) ∧
  (∀ (p : Int) (s : State), ¬ (0 ≤ p ∧ p ≤ 31) → exec (.set p) s = .next (raiseFault .pinRange (.pin p) s)) ∧
  (∀ (p : Fin 32) (s : State), s.map ≠ .mapped → exec (.set p.val) s = .next (raiseFault .notMapped (.off 0x1C) s))

/-- R72: CLEAR, the same with 0x28 and low. -/
def Obligations.ClearDrivesPinLow : Prop :=
  (∀ (p : Fin 32) (s : State), s.map = .mapped →
    ∃ t, exec (.clear p.val) s = .next t ∧
      (∀ q, t.out.getLsbD q = if q = p.val then false else s.out.getLsbD q) ∧
      t = { s with out := t.out, trace := s.trace ++ [.wr 0x28 ((1 : Word) <<< p.val)] }) ∧
  (∀ (p : Int) (s : State), ¬ (0 ≤ p ∧ p ≤ 31) → exec (.clear p) s = .next (raiseFault .pinRange (.pin p) s)) ∧
  (∀ (p : Fin 32) (s : State), s.map ≠ .mapped → exec (.clear p.val) s = .next (raiseFault .notMapped (.off 0x28) s))

/-- R75: after SET the pin is 1, after SET and CLEAR it is 0; every other OUT bit and every FSEL register is
unchanged in both. -/
def Obligations.SetClearNoCrosstalk : Prop :=
  ∀ (p : Fin 32) (s : State), s.map = .mapped →
    ∃ t u, exec (.set p.val) s = .next t ∧ exec (.clear p.val) t = .next u ∧
      t.out.getLsbD p.val = true ∧ u.out.getLsbD p.val = false ∧
      (∀ q, q ≠ p.val → t.out.getLsbD q = s.out.getLsbD q ∧ u.out.getLsbD q = s.out.getLsbD q) ∧
      t.fsel = s.fsel ∧ u.fsel = s.fsel

/-- R74: driving a pin that is not an output updates the latch and leaves LEVEL undriven; configuring it later drives
the latched value; the command port accepts every pin of 0..31, whatever its function. -/
def Obligations.DriveOfNonOutputPin : Prop :=
  ∀ (p : Fin 32) (q : Fin 54) (s : State), q.val = p.val → s.map = .mapped →
    (∃ t u, exec (.set p.val) s = .next t ∧ t.out.getLsbD p.val = true ∧
      (pinField s.fsel q ≠ 1 → t.level q = none) ∧
      exec (.configureAsOutput p.val) t = .next u ∧ u.level q = some true) ∧
    (∃ t u, exec (.clear p.val) s = .next t ∧ t.out.getLsbD p.val = false ∧
      (pinField s.fsel q ≠ 1 → t.level q = none) ∧
      exec (.configureAsOutput p.val) t = .next u ∧ u.level q = some false) ∧
    (executorFree s = true →
      (∃ t, exec (.cmdOn p.val) s = .next t ∧ t.out.getLsbD p.val = true) ∧
      (∃ t, exec (.cmdOff p.val) s = .next t ∧ t.out.getLsbD p.val = false) ∧
      ∃ t, exec (.cmdBlink p.val) s = .next t ∧ t.seq = .blinking p 50 .setHigh)

/-! ## The Blink Sequencer -/

/-- R77, R82: BLINK sets the sequencer for d / 100 cycles of d > 0, does nothing for none, checks the pin first and is
turned away while a blink runs. -/
def Obligations.BlinkStartsSequence : Prop :=
  (∀ (p : Fin 32) (d : Int) (s : State), s.seq = .idle → 100 ≤ d →
    exec (.blink p.val d) s = .next { s with seq := .blinking p (d / 100).toNat .setHigh } ∧ 1 ≤ (d / 100).toNat) ∧
  (∀ (p : Fin 32) (d : Int) (s : State), s.seq = .idle → d < 100 → exec (.blink p.val d) s = .next s) ∧
  (∀ (p d : Int) (s : State), s.seq = .idle → ¬ (0 ≤ p ∧ p ≤ 31) →
    exec (.blink p d) s = .next (raiseFault .pinRange (.pin p) s)) ∧
  (∀ (p d : Int) (s : State), s.seq ≠ .idle → exec (.blink p d) s = .next (raiseFault .busy (.seq s.seq) s))

/-- R79: DELAY records its event and changes nothing else (the model has no clock, R5). R79 gives DELAY a positive ms
only; that `exec` records the event for ms = 0 too is the model's choice (log 31). -/
def Obligations.DelayRecordsEvent : Prop :=
  ∀ (ms : Nat) (s : State), exec (.delay ms) s = .next { s with trace := s.trace ++ [.dly ms] }

/-- R78: each Executor step of a blink, whatever the agenda holds (what the last step of a blink gives the Host that sent
it as a WRITE is in BlinkRunsToCompletion; what a Set phase that faults leaves in seq is in SequencerFaultEndsBlink). -/
def Obligations.SequencerPhases : Prop :=
  ∀ (p : Fin 32) (r : Nat) (s : State),
    (s.map = .mapped → s.seq = .blinking p r .setHigh → ∃ t, executorMove s = .next t ∧
      (∀ q, t.out.getLsbD q = if q = p.val then true else s.out.getLsbD q) ∧
      t = { s with out := t.out, seq := .blinking p r .waitHigh,
                   trace := s.trace ++ [.wr 0x1C ((1 : Word) <<< p.val)] }) ∧
    (s.seq = .blinking p r .waitHigh →
      executorMove s = .next { s with seq := .blinking p r .setLow, trace := s.trace ++ [.dly 50] }) ∧
    (s.map = .mapped → s.seq = .blinking p r .setLow → ∃ t, executorMove s = .next t ∧
      (∀ q, t.out.getLsbD q = if q = p.val then false else s.out.getLsbD q) ∧
      t = { s with out := t.out, seq := .blinking p r .waitLow,
                   trace := s.trace ++ [.wr 0x28 ((1 : Word) <<< p.val)] }) ∧
    (s.seq = .blinking p r .waitLow → r ≠ 1 →
      executorMove s = .next { s with seq := .blinking p (r - 1) .setHigh, trace := s.trace ++ [.dly 50] }) ∧
    (s.seq = .blinking p 1 .waitLow → s.writing = none →
      executorMove s = .next { s with seq := .idle, trace := s.trace ++ [.dly 50] }) ∧
    (s.map ≠ .mapped → s.seq = .blinking p r .setHigh → ∃ t, executorMove s = .next t ∧
      t = { raiseFault .notMapped (.off 0x1C) s with seq := t.seq, writing := t.writing }) ∧
    (s.map ≠ .mapped → s.seq = .blinking p r .setLow → ∃ t, executorMove s = .next t ∧
      t = { raiseFault .notMapped (.off 0x28) s with seq := t.seq, writing := t.writing })

/-- A Set phase that faults abandons its blink: seq is Idle, no phase is repeated, and a WRITE that started the blink
gets nothing back (R9, R111; that it ends so is the model's choice, log 33). -/
def Obligations.SequencerFaultEndsBlink : Prop :=
  ∀ (p : Fin 32) (r : Nat) (s : State), s.map ≠ .mapped →
    (s.seq = .blinking p r .setHigh →
      executorMove s = .next { raiseFault .notMapped (.off 0x1C) s with seq := .idle, writing := none }) ∧
    (s.seq = .blinking p r .setLow →
      executorMove s = .next { raiseFault .notMapped (.off 0x28) s with seq := .idle, writing := none })

/-- R83, R84, R85: a blink of c cycles ends after exactly 4c Executor steps, whatever the agenda holds; it appends exactly
c times the four events of a cycle; OUT[p] ends 0 and nothing else of the block has changed; a WRITE that started it gets
its count. With no turn left, or while the next request waits for the Executor, these are the steps of the machine. -/
def Obligations.BlinkRunsToCompletion : Prop :=
  ∀ (p : Fin 32) (c : Nat) (s : State), 1 ≤ c → s.map = .mapped → s.seq = .blinking p c .setHigh →
    (∃ t, executorRun (4 * c) s = .next t ∧
      t.trace = s.trace ++ blinkEvents p c ∧
      (∀ q, t.out.getLsbD q = if q = p.val then false else s.out.getLsbD q) ∧
      t = { s with out := t.out, trace := t.trace, seq := .idle, writing := none,
                   replies := s.replies ++ (s.writing.map Reply.count).toList }) ∧
    (∀ k, k < 4 * c → ∃ u, executorRun k s = .next u ∧ u.seq ≠ .idle) ∧
    ((s.agenda = [] ∨ ∃ code rest, s.agenda = .request code :: rest ∧ waitsForExecutor code = true) →
      ∀ k, k ≤ 4 * c → Host.Core.run Sys2Proof.core k s = executorRun k s)

/-- R81: while a blink runs, no operation changes the sequencer, and a step leaves it or performs the phase's own
advance: nothing ends a blink early, changes its pin or changes its cycle count. The one other end is the blink's own
fault in a Set phase with the window unmapped (R78), which is then recorded. -/
def Obligations.BlinkIsNeverCancelled : Prop :=
  ∀ (p : Fin 32) (r : Nat) (ph : Phase) (s t : State), s.seq = .blinking p r ph →
    (∀ i, exec i s = .next t → t.seq = s.seq) ∧
    (step s = .next t → t.seq = s.seq ∨ t.seq = nextPhase p r ph ∨
      (s.map ≠ .mapped ∧ (ph = .setHigh ∨ ph = .setLow) ∧ ∃ off, ⟨.notMapped, .off off⟩ ∈ t.faults))

/-! ## The command port -/

/-- R56, R57, R58: Parse accepts exactly the texts of the grammar, with their pin field and token. -/
def Obligations.ParseMatchesGrammar : Prop :=
  ∀ (t : List Byte) (P : Int) (T : List Byte), 0x00 ∉ t → (parse t = .ok P T ↔ IsCommand t P T)

/-- R59: the effective text is the first min(n, 255) bytes up to, but not including, the first 0x00 byte. -/
def Obligations.EffectiveTextIsDelivered : Prop :=
  ∀ buf : List Byte,
    effectiveText buf <+: buf ∧ 0x00 ∉ effectiveText buf ∧ (effectiveText buf).length ≤ 255 ∧
      ((effectiveText buf).length = min buf.length 255 ∨ buf[(effectiveText buf).length]? = some 0x00)

/-- R60: the action tokens, by exact comparison. -/
def Obligations.ActionTokensAreExact : Prop :=
  ∀ (T : List Byte) (a : Action), actionOf T = some a ↔
    (a = .on ∧ T = [0x6F, 0x6E]) ∨ (a = .off ∧ T = [0x6F, 0x66, 0x66]) ∨
      (a = .blink ∧ T = [0x62, 0x6C, 0x69, 0x6E, 0x6B])

/-- R89, R90, R91, R96: the commands with a pin of 0..31 do SET, CLEAR and BLINK(P, 5000) and nothing else; lastErr in
particular is unchanged. -/
def Obligations.CommandsDriveAndBlink : Prop :=
  ∀ (p : Fin 32) (s : State), s.map = .mapped → executorFree s = true →
    (∃ t, exec (.cmdOn p.val) s = .next t ∧
      (∀ q, t.out.getLsbD q = if q = p.val then true else s.out.getLsbD q) ∧
      t = { s with out := t.out, trace := s.trace ++ [.wr 0x1C ((1 : Word) <<< p.val)] }) ∧
    (∃ t, exec (.cmdOff p.val) s = .next t ∧
      (∀ q, t.out.getLsbD q = if q = p.val then false else s.out.getLsbD q) ∧
      t = { s with out := t.out, trace := s.trace ++ [.wr 0x28 ((1 : Word) <<< p.val)] }) ∧
    exec (.cmdBlink p.val) s = .next { s with seq := .blinking p 50 .setHigh }

/-- R92, R94, R95 (and R93): a command in error records exactly its message, byte by byte, with no terminator, replacing
the old text, as one event, and changes nothing else; the action is checked before the pin range (R88). -/
def Obligations.CommandErrorsAreRecorded : Prop :=
  formatMessage = [0x49, 0x6E, 0x76, 0x61, 0x6C, 0x69, 0x64, 0x20, 0x69, 0x6E, 0x70, 0x75, 0x74, 0x20,
    0x66, 0x6F, 0x72, 0x6D, 0x61, 0x74] ∧
  (∀ T, actionMessage T = [0x55, 0x6E, 0x6B, 0x6E, 0x6F, 0x77, 0x6E, 0x20, 0x61, 0x63, 0x74, 0x69, 0x6F, 0x6E,
    0x3A, 0x20] ++ T) ∧
  pinMessage = [0x70, 0x69, 0x6E, 0x20, 0x6F, 0x75, 0x74, 0x20, 0x6F, 0x66, 0x20, 0x72, 0x61, 0x6E, 0x67, 0x65] ∧
  ∀ s : State, s.map = .mapped → executorFree s = true →
    exec .cmdMalformed s =
      .next { s with lastErr := formatMessage, trace := s.trace ++ [.err formatMessage] } ∧
    (∀ (p : Int) (T : List Byte), unknownToken T = true →
      exec (.cmdUnknown p T) s =
        .next { s with lastErr := actionMessage T, trace := s.trace ++ [.err (actionMessage T)] }) ∧
    (∀ p : Int, ¬ (0 ≤ p ∧ p ≤ 31) →
      exec (.cmdOn p) s = .next { s with lastErr := pinMessage, trace := s.trace ++ [.err pinMessage] } ∧
      exec (.cmdOff p) s = .next { s with lastErr := pinMessage, trace := s.trace ++ [.err pinMessage] } ∧
      exec (.cmdBlink p) s = .next { s with lastErr := pinMessage, trace := s.trace ++ [.err pinMessage] })

/-! ## The Command Channel -/

/-- R99: a WRITE whose copy succeeds, taken by a free Executor, does exactly what the command row of its text does, and
returns its full length n: at once, or, where it started a blink, when the blink ends. -/
def Obligations.WriteRunsItsCommand : Prop :=
  ∀ (buf : List Byte) (s : State), s.map = .mapped → executorFree s = true →
    ∃ t, exec (decodeCmd buf) s = .next t ∧
      (t.seq = .idle →
        exec (.write buf true) s = .next { t with replies := s.replies ++ [.count buf.length] }) ∧
      (t.seq ≠ .idle → exec (.write buf true) s = .next { t with writing := some buf.length }) ∧
      t.replies = s.replies

/-- R103, R110: copy faults are returned to the Host; nothing is parsed, no window access happens, lastErr and the rest
of the block are unchanged. -/
def Obligations.CopyFaultsAreReturned : Prop :=
  ∀ s : State, s.map = .mapped →
    (∀ buf, executorFree s = true →
      exec (.write buf false) s = .next { s with replies := s.replies ++ [.error .eCopyIn none] }) ∧
    (∀ (maxLen off : Nat), off < s.lastErr.length → maxLen ≠ 0 →
      exec (.read maxLen off false) s = .next { s with replies := s.replies ++ [.error .eCopyOut none] })

/-- R104: a WRITE that arrives while the Executor is busy is held, whatever its copy will do; so is a command. -/
def Obligations.BusyExecutorHoldsWrites : Prop :=
  ∀ s : State, s.map = .mapped → executorFree s = false →
    (∀ buf ok, exec (.write buf ok) s = .next { s with held := s.held ++ [.write buf ok] }) ∧
    (∀ p, exec (.cmdOn p) s = .next { s with held := s.held ++ [.command (.ok p (tokenOf .on))] }) ∧
    (∀ p, exec (.cmdOff p) s = .next { s with held := s.held ++ [.command (.ok p (tokenOf .off))] }) ∧
    (∀ p, exec (.cmdBlink p) s = .next { s with held := s.held ++ [.command (.ok p (tokenOf .blink))] }) ∧
    (∀ p T, exec (.cmdUnknown p T) s = .next { s with held := s.held ++ [.command (.ok p T)] }) ∧
    exec .cmdMalformed s = .next { s with held := s.held ++ [.command .malformed] }

/-- R104: once the Executor is idle, its next step runs the oldest held WRITE or command as that operation itself would
have run, whatever the agenda holds, and the others stay held in their order. -/
def Obligations.HeldWriteRunsOldestFirst : Prop :=
  ∀ (h : Held) (rest : List Held) (s : State), s.map = .mapped → s.seq = .idle → s.held = h :: rest →
    ∃ t, exec (heldInstr h) { s with held := [] } = .next t ∧ t.held = [] ∧
      executorMove s = .next { t with held := rest }

/-- R100: a READ gives back min(max_len, L - off) bytes of the Last-Error text from off, none at or past the end, whether
or not a blink runs, and changes nothing of the block; a copy fault gives E_COPY_OUT; outside the mapped lifetime and
with a negative offset it has no move. -/
def Obligations.ReadReturnsLastErrorSlice : Prop :=
  (∀ (n : Nat) (off : Int) (ok : Bool) (s : State),
    (s.map ≠ .mapped → exec (.read n off ok) s = .refused .channelNotOffered) ∧
    (s.map = .mapped → off < 0 → exec (.read n off ok) s = .refused .negativeOffset)) ∧
  ∀ (maxLen off : Nat) (s : State), s.map = .mapped →
    (∃ bs, exec (.read maxLen off true) s = .next { s with replies := s.replies ++ [.bytes bs] } ∧
      bs.length = min maxLen (s.lastErr.length - off) ∧ ∀ i, i < bs.length → bs[i]? = s.lastErr[off + i]?) ∧
    (∀ ok, (s.lastErr.length ≤ off ∨ maxLen = 0) →
      exec (.read maxLen off ok) s = .next { s with replies := s.replies ++ [.bytes []] }) ∧
    (off < s.lastErr.length → maxLen ≠ 0 →
      exec (.read maxLen off false) s = .next { s with replies := s.replies ++ [.error .eCopyOut none] })

/-- R98, R101: OPEN and CLOSE answer ok and change nothing. -/
def Obligations.OpenCloseAnswerOk : Prop :=
  ∀ s : State, s.map = .mapped →
    exec .openChannel s = .next { s with replies := s.replies ++ [.ok] } ∧
    exec .closeChannel s = .next { s with replies := s.replies ++ [.ok] }

/-- R97, R99, R100, R102: outside the mapped lifetime the channel is not offered: a WRITE and a READ have no move (for
OPEN and CLOSE log 18, for a command outside a WRITE log 10). -/
def Obligations.ChannelRefusals : Prop :=
  ∀ s : State, s.map ≠ .mapped →
    exec .openChannel s = .refused .channelNotOffered ∧ exec .closeChannel s = .refused .channelNotOffered ∧
    (∀ buf ok, exec (.write buf ok) s = .refused .channelNotOffered) ∧
    (∀ n off ok, exec (.read n off ok) s = .refused .channelNotOffered) ∧
    (∀ p, exec (.cmdOn p) s = .refused .channelNotOffered ∧ exec (.cmdOff p) s = .refused .channelNotOffered ∧
      exec (.cmdBlink p) s = .refused .channelNotOffered ∧
      ∀ T, exec (.cmdUnknown p T) s = .refused .channelNotOffered) ∧
    exec .cmdMalformed s = .refused .channelNotOffered

/-! ## The lifecycle -/

/-- R123, R127: STARTUP with a granted mapping maps the window, sets each LED pin's field to output in list order and
answers ok; the events are Map(granted) and a read and a write per pin, each read seeing the writes before it; every
FSEL bit outside the LED pins' fields, OUT, lastErr, seq and the fault set are unchanged. -/
def Obligations.StartupMapsAndConfigures : Prop :=
  ∀ (base : Nat) (s : State), s.map = .preMap → s.params.mapGrant = .granted base →
    ∃ (t : State) (es : List Event),
      exec .startup s = .next t ∧
      (∀ q ∈ s.params.ledPins.list, ∀ p : Fin 54, p.val = q.val → pinField t.fsel p = 1) ∧
      (∀ (n : Fin 6) (i : Nat),
        (∀ q ∈ s.params.ledPins.list, ¬ (q.val / 10 = n.val ∧ q.val % 10 * 3 ≤ i ∧ i < q.val % 10 * 3 + 3)) →
        (getFsel t.fsel n).getLsbD i = (getFsel s.fsel n).getLsbD i) ∧
      es.length = 6 ∧
      (∀ k : Fin 3, ∃ q v w, s.params.ledPins.list[k.val]? = some q ∧
        es[2 * k.val]? = some (.rd (4 * (q.val / 10)) v) ∧ es[2 * k.val + 1]? = some (.wr (4 * (q.val / 10)) w) ∧
        w = (v &&& ~~~ ((7 : Word) <<< (q.val % 10 * 3))) ||| (1 : Word) <<< (q.val % 10 * 3)) ∧
      replay ⟨.mapped, s.fsel, s.out, s.lastErr⟩ es = some t.device ∧
      t = { s with map := .mapped, vbase := base, fsel := t.fsel, trace := s.trace ++ .mapAnswered true :: es,
                   replies := s.replies ++ [.ok] }

/-- R109, R123: a refused mapping ends STARTUP with E_MAP and nothing else; its meaning run after MAP faults F_DOUBLE_MAP
(R123). As a coming request STARTUP waits while the Executor is busy (log 9), and a second one has no move (R102; the
reading of the two rules together is the model's, log 16). -/
def Obligations.StartupRefusedOrRepeated : Prop :=
  ∀ s : State,
    (∀ reason, s.map = .preMap → s.params.mapGrant = .refused reason →
      exec .startup s = .next { s with map := .mapFailed, trace := s.trace ++ [.mapAnswered false],
                                       replies := s.replies ++ [.error .eMap (some reason)] }) ∧
    (s.map ≠ .preMap → exec .startup s = .next (raiseFault .doubleMap (.map s.map) s)) ∧
    ∀ rest, s.agenda = .request (encode .startup) :: rest →
      (executorFree s = false → step s = executorMove s) ∧
      (executorFree s = true → s.map ≠ .preMap → step s = .refused .excludedRequest)

/-- R124: SHUTDOWN of a mapped, idle block with nothing held clears each LED pin in list order, unmaps and answers ok;
no other OUT bit, no FSEL register and nothing else changes; without faults the run is then finished (R136). -/
def Obligations.ShutdownClearsAndUnmaps : Prop :=
  ∀ s : State, s.map = .mapped → executorFree s = true →
    ∃ t, exec .shutdown s = .next t ∧
      (∀ q, t.out.getLsbD q =
        if q = s.params.ledPins.q0.val ∨ q = s.params.ledPins.q1.val ∨ q = s.params.ledPins.q2.val then false
        else s.out.getLsbD q) ∧
      t = { s with map := .unmapped, out := t.out,
                   trace := s.trace ++ [.wr 0x28 ((1 : Word) <<< s.params.ledPins.q0.val),
                     .wr 0x28 ((1 : Word) <<< s.params.ledPins.q1.val),
                     .wr 0x28 ((1 : Word) <<< s.params.ledPins.q2.val), .unmapped],
                   replies := s.replies ++ [.ok] } ∧
      (s.faults = [] → t.finished)

/-- R124, R102: SHUTDOWN's meaning without a mapped window faults F_DOUBLE_UNMAP with no access (R124); while a WRITE is
running or held it has no move. As a coming request it waits while the Executor is busy (log 17), and before STARTUP,
after a failed one or after SHUTDOWN it has no move (R102; the reading of the two rules together is the model's,
log 16). -/
def Obligations.ShutdownOtherwise : Prop :=
  ∀ s : State,
    (s.map ≠ .mapped → exec .shutdown s = .next (raiseFault .doubleUnmap (.map s.map) s)) ∧
    (s.map = .mapped → executorFree s = false → exec .shutdown s = .refused .shutdownNotIdle) ∧
    ∀ rest, s.agenda = .request (encode .shutdown) :: rest →
      (executorFree s = false → step s = executorMove s) ∧
      (executorFree s = true → s.map ≠ .mapped → step s = .refused .excludedRequest)

/-! ## Encoding and the step -/

/-- Decode and encode agree: every well-formed operation, at every value of its operands, is read back from its
encoding (R50, R51, R56, R63; the OP and HOST texts and the canonical command texts are the model's, logs 13, 15, 29). -/
def Obligations.DecodeOfEncode : Prop :=
  ∀ i : Instr, wellFormed i = true → decode (encode i) = .ok i

/-- Whatever the decoder reads is well-formed, and of the level it was read at (R50, R56 to R60, R79). -/
def Obligations.DecodeYieldsWellFormed : Prop :=
  ∀ (c : Code) (i : Instr), decode c = .ok i → i.level = c.level ∧ wellFormed i = true

/-- R33, R35, R51, R61: a BUS value that matches no row is an access that raises the first fault of R35's checks, with its
offset recorded, and has no other effect; a BUS request that is no single 65-bit value is refused (its bytes: log 13). -/
def Obligations.BusValueWithoutRowFaults : Prop :=
  (∀ (isWrite : Bool) (off data : Word) (s : State) (rest : List Turn),
    off ∉ ([0x00, 0x04, 0x08, 0x0C, 0x10, 0x14] : List Word) →
    (isWrite = true → off ≠ 0x1C ∧ off ≠ 0x28) →
    s.agenda = .request ⟨.bus, busBytes isWrite off data⟩ :: rest → executorFree s = true →
    step s = .next (raiseFault
      (if s.map ≠ .mapped then .notMapped
       else if off.toNat % 4 ≠ 0 then .misaligned
       else if s.params.windowLen ≤ off.toNat then .outOfWindow
       else if off ≠ 0x1C ∧ off ≠ 0x28 then .undefinedRegister
       else .writeOnlyRead) (.off off.toNat) { s with agenda := rest })) ∧
  (∀ (bytes : List Byte) (s : State) (rest : List Turn), (bytes.length ≠ 9 ∨ 2 ^ 65 ≤ leValue bytes) →
    s.agenda = .request ⟨.bus, bytes⟩ :: rest → executorFree s = true → step s = .refused .accessWidth)

/-- Words written out from the tables of R51 and the grammar of R56, and the operations they stand for. -/
def Obligations.KnownWordsDecode : Prop :=
  decodeTableWord 72 0x1400000007 = some (.busRdFsel5 7) ∧
  decodeTableWord 72 0x10000000800000008 = some (.busWrFsel2 8) ∧
  decodeTableWord 72 0x10000001C00200000 = some (.busWrSet0 0x200000) ∧
  decode ⟨.cmd, [0x20, 0x09, 0x32, 0x31, 0x3A, 0x20, 0x6F, 0x66, 0x66, 0x0D, 0x0A]⟩ = .ok (.cmdOff 21) ∧
  decode ⟨.op, [0x53, 0x45, 0x54, 0x28, 0x33, 0x31, 0x29]⟩ = .ok (.set 31) ∧
  decode ⟨.host, [0x52, 0x45, 0x41, 0x44, 0x20, 0x32, 0x35, 0x36, 0x20, 0x31, 0x36]⟩ = .ok (.read 256 16 true)

/-- A step runs the decoded request (R5, R25): the next request of the agenda, once it need not wait for the Executor, is
taken off and its operation runs, but for the Host's requests that R102 excludes, which have no move; a table word placed
by withFetchWord runs in the next step. -/
def Obligations.StepRunsDecodedRequest : Prop :=
  (∀ (s : State) (c : Code) (rest : List Turn) (i : Instr), s.agenda = .request c :: rest → decode c = .ok i →
    (waitsForExecutor c = false ∨ executorFree s = true) →
    step s =
      if (i = .startup ∧ s.map ≠ .preMap) ∨ (i = .shutdown ∧ s.map ≠ .mapped) then .refused .excludedRequest
      else exec i { s with agenda := rest }) ∧
  (∀ (s : State) (nbits w : Nat) (i : Instr), decodeTableWord nbits w = some i →
    step (s.withFetchWord nbits w) = exec i { s with seq := .idle, held := [], writing := none })

/-- R80 (the order is the model's, logs 6, 7, 9): a request for the Executor waits while it is busy, and these are the BUS
and OP requests, STARTUP and SHUTDOWN; a turn left to the Executor is its own; with no turn left the Executor moves; its
own move leaves an idle block with nothing held as it is. -/
def Obligations.ExecutorTurns : Prop :=
  (∀ (s : State) (c : Code) (rest : List Turn), s.agenda = .request c :: rest → waitsForExecutor c = true →
    executorFree s = false → step s = executorMove s) ∧
  (∀ c : Code, waitsForExecutor c = true ↔
    c.level = .bus ∨ c.level = .op ∨ decode c = .ok .startup ∨ decode c = .ok .shutdown) ∧
  (∀ (s : State) (rest : List Turn), s.agenda = .executor :: rest →
    step s = executorMove { s with agenda := rest }) ∧
  (∀ s : State, s.agenda = [] → step s = executorMove s) ∧
  (∀ s : State, executorFree s = true → executorMove s = .next s)
end

