-- ==== Sys2Proof/Laws/State.lean ====
section
/-!
SUPPORT. One lemma per field per update of the state, and the fields a device write leaves alone.
-/
namespace Sys2Proof.Machine

@[simp] theorem emit_map (e : Event) (s : State) : (emit e s).map = s.map := rfl
@[simp] theorem emit_vbase (e : Event) (s : State) : (emit e s).vbase = s.vbase := rfl
@[simp] theorem emit_fsel (e : Event) (s : State) : (emit e s).fsel = s.fsel := rfl
@[simp] theorem emit_out (e : Event) (s : State) : (emit e s).out = s.out := rfl
@[simp] theorem emit_lastErr (e : Event) (s : State) : (emit e s).lastErr = s.lastErr := rfl
@[simp] theorem emit_seq (e : Event) (s : State) : (emit e s).seq = s.seq := rfl
@[simp] theorem emit_trace (e : Event) (s : State) : (emit e s).trace = s.trace ++ [e] := rfl
@[simp] theorem emit_faults (e : Event) (s : State) : (emit e s).faults = s.faults := rfl
@[simp] theorem emit_params (e : Event) (s : State) : (emit e s).params = s.params := rfl
@[simp] theorem emit_agenda (e : Event) (s : State) : (emit e s).agenda = s.agenda := rfl
@[simp] theorem emit_held (e : Event) (s : State) : (emit e s).held = s.held := rfl
@[simp] theorem emit_writing (e : Event) (s : State) : (emit e s).writing = s.writing := rfl
@[simp] theorem emit_replies (e : Event) (s : State) : (emit e s).replies = s.replies := rfl

@[simp] theorem raiseFault_map (code : FaultCode) (value : FaultValue) (s : State) : (raiseFault code value s).map = s.map := rfl
@[simp] theorem raiseFault_vbase (code : FaultCode) (value : FaultValue) (s : State) : (raiseFault code value s).vbase = s.vbase := rfl
@[simp] theorem raiseFault_fsel (code : FaultCode) (value : FaultValue) (s : State) : (raiseFault code value s).fsel = s.fsel := rfl
@[simp] theorem raiseFault_out (code : FaultCode) (value : FaultValue) (s : State) : (raiseFault code value s).out = s.out := rfl
@[simp] theorem raiseFault_lastErr (code : FaultCode) (value : FaultValue) (s : State) : (raiseFault code value s).lastErr = s.lastErr := rfl
@[simp] theorem raiseFault_seq (code : FaultCode) (value : FaultValue) (s : State) : (raiseFault code value s).seq = s.seq := rfl
@[simp] theorem raiseFault_trace (code : FaultCode) (value : FaultValue) (s : State) : (raiseFault code value s).trace = s.trace := rfl
@[simp] theorem raiseFault_faults (code : FaultCode) (value : FaultValue) (s : State) : (raiseFault code value s).faults = if ⟨code, value⟩ ∈ s.faults then s.faults else s.faults ++ [⟨code, value⟩] := rfl
@[simp] theorem raiseFault_params (code : FaultCode) (value : FaultValue) (s : State) : (raiseFault code value s).params = s.params := rfl
@[simp] theorem raiseFault_agenda (code : FaultCode) (value : FaultValue) (s : State) : (raiseFault code value s).agenda = s.agenda := rfl
@[simp] theorem raiseFault_held (code : FaultCode) (value : FaultValue) (s : State) : (raiseFault code value s).held = s.held := rfl
@[simp] theorem raiseFault_writing (code : FaultCode) (value : FaultValue) (s : State) : (raiseFault code value s).writing = s.writing := rfl
@[simp] theorem raiseFault_replies (code : FaultCode) (value : FaultValue) (s : State) : (raiseFault code value s).replies = s.replies := rfl

@[simp] theorem recordError_map (msg : List Byte) (s : State) : (recordError msg s).map = s.map := rfl
@[simp] theorem recordError_vbase (msg : List Byte) (s : State) : (recordError msg s).vbase = s.vbase := rfl
@[simp] theorem recordError_fsel (msg : List Byte) (s : State) : (recordError msg s).fsel = s.fsel := rfl
@[simp] theorem recordError_out (msg : List Byte) (s : State) : (recordError msg s).out = s.out := rfl
@[simp] theorem recordError_lastErr (msg : List Byte) (s : State) : (recordError msg s).lastErr = msg.take errCap := rfl
@[simp] theorem recordError_seq (msg : List Byte) (s : State) : (recordError msg s).seq = s.seq := rfl
@[simp] theorem recordError_trace (msg : List Byte) (s : State) : (recordError msg s).trace = s.trace ++ [.err msg] := rfl
@[simp] theorem recordError_faults (msg : List Byte) (s : State) : (recordError msg s).faults = s.faults := rfl
@[simp] theorem recordError_params (msg : List Byte) (s : State) : (recordError msg s).params = s.params := rfl
@[simp] theorem recordError_agenda (msg : List Byte) (s : State) : (recordError msg s).agenda = s.agenda := rfl
@[simp] theorem recordError_held (msg : List Byte) (s : State) : (recordError msg s).held = s.held := rfl
@[simp] theorem recordError_writing (msg : List Byte) (s : State) : (recordError msg s).writing = s.writing := rfl
@[simp] theorem recordError_replies (msg : List Byte) (s : State) : (recordError msg s).replies = s.replies := rfl

@[simp] theorem reply_map (r : Reply) (s : State) : (reply r s).map = s.map := rfl
@[simp] theorem reply_vbase (r : Reply) (s : State) : (reply r s).vbase = s.vbase := rfl
@[simp] theorem reply_fsel (r : Reply) (s : State) : (reply r s).fsel = s.fsel := rfl
@[simp] theorem reply_out (r : Reply) (s : State) : (reply r s).out = s.out := rfl
@[simp] theorem reply_lastErr (r : Reply) (s : State) : (reply r s).lastErr = s.lastErr := rfl
@[simp] theorem reply_seq (r : Reply) (s : State) : (reply r s).seq = s.seq := rfl
@[simp] theorem reply_trace (r : Reply) (s : State) : (reply r s).trace = s.trace := rfl
@[simp] theorem reply_faults (r : Reply) (s : State) : (reply r s).faults = s.faults := rfl
@[simp] theorem reply_params (r : Reply) (s : State) : (reply r s).params = s.params := rfl
@[simp] theorem reply_agenda (r : Reply) (s : State) : (reply r s).agenda = s.agenda := rfl
@[simp] theorem reply_held (r : Reply) (s : State) : (reply r s).held = s.held := rfl
@[simp] theorem reply_writing (r : Reply) (s : State) : (reply r s).writing = s.writing := rfl
@[simp] theorem reply_replies (r : Reply) (s : State) : (reply r s).replies = s.replies ++ [r] := rfl

@[simp] theorem hold_map (h : Held) (s : State) : (hold h s).map = s.map := rfl
@[simp] theorem hold_vbase (h : Held) (s : State) : (hold h s).vbase = s.vbase := rfl
@[simp] theorem hold_fsel (h : Held) (s : State) : (hold h s).fsel = s.fsel := rfl
@[simp] theorem hold_out (h : Held) (s : State) : (hold h s).out = s.out := rfl
@[simp] theorem hold_lastErr (h : Held) (s : State) : (hold h s).lastErr = s.lastErr := rfl
@[simp] theorem hold_seq (h : Held) (s : State) : (hold h s).seq = s.seq := rfl
@[simp] theorem hold_trace (h : Held) (s : State) : (hold h s).trace = s.trace := rfl
@[simp] theorem hold_faults (h : Held) (s : State) : (hold h s).faults = s.faults := rfl
@[simp] theorem hold_params (h : Held) (s : State) : (hold h s).params = s.params := rfl
@[simp] theorem hold_agenda (h : Held) (s : State) : (hold h s).agenda = s.agenda := rfl
@[simp] theorem hold_held (h : Held) (s : State) : (hold h s).held = s.held ++ [h] := rfl
@[simp] theorem hold_writing (h : Held) (s : State) : (hold h s).writing = s.writing := rfl
@[simp] theorem hold_replies (h : Held) (s : State) : (hold h s).replies = s.replies := rfl

@[simp] theorem delay_map (ms : Nat) (s : State) : (delay ms s).map = s.map := rfl
@[simp] theorem delay_vbase (ms : Nat) (s : State) : (delay ms s).vbase = s.vbase := rfl
@[simp] theorem delay_fsel (ms : Nat) (s : State) : (delay ms s).fsel = s.fsel := rfl
@[simp] theorem delay_out (ms : Nat) (s : State) : (delay ms s).out = s.out := rfl
@[simp] theorem delay_lastErr (ms : Nat) (s : State) : (delay ms s).lastErr = s.lastErr := rfl
@[simp] theorem delay_seq (ms : Nat) (s : State) : (delay ms s).seq = s.seq := rfl
@[simp] theorem delay_trace (ms : Nat) (s : State) : (delay ms s).trace = s.trace ++ [.dly ms] := rfl
@[simp] theorem delay_faults (ms : Nat) (s : State) : (delay ms s).faults = s.faults := rfl
@[simp] theorem delay_params (ms : Nat) (s : State) : (delay ms s).params = s.params := rfl
@[simp] theorem delay_agenda (ms : Nat) (s : State) : (delay ms s).agenda = s.agenda := rfl
@[simp] theorem delay_held (ms : Nat) (s : State) : (delay ms s).held = s.held := rfl
@[simp] theorem delay_writing (ms : Nat) (s : State) : (delay ms s).writing = s.writing := rfl
@[simp] theorem delay_replies (ms : Nat) (s : State) : (delay ms s).replies = s.replies := rfl

@[simp] theorem writeReg_map (r : RegName) (v : Word) (s : State) : (writeReg r v s).map = s.map := by
  cases r <;> rfl
@[simp] theorem writeReg_vbase (r : RegName) (v : Word) (s : State) : (writeReg r v s).vbase = s.vbase := by
  cases r <;> rfl
@[simp] theorem writeReg_lastErr (r : RegName) (v : Word) (s : State) : (writeReg r v s).lastErr = s.lastErr := by
  cases r <;> rfl
@[simp] theorem writeReg_seq (r : RegName) (v : Word) (s : State) : (writeReg r v s).seq = s.seq := by
  cases r <;> rfl
@[simp] theorem writeReg_trace (r : RegName) (v : Word) (s : State) : (writeReg r v s).trace = s.trace := by
  cases r <;> rfl
@[simp] theorem writeReg_faults (r : RegName) (v : Word) (s : State) : (writeReg r v s).faults = s.faults := by
  cases r <;> rfl
@[simp] theorem writeReg_params (r : RegName) (v : Word) (s : State) : (writeReg r v s).params = s.params := by
  cases r <;> rfl
@[simp] theorem writeReg_agenda (r : RegName) (v : Word) (s : State) : (writeReg r v s).agenda = s.agenda := by
  cases r <;> rfl
@[simp] theorem writeReg_held (r : RegName) (v : Word) (s : State) : (writeReg r v s).held = s.held := by
  cases r <;> rfl
@[simp] theorem writeReg_writing (r : RegName) (v : Word) (s : State) : (writeReg r v s).writing = s.writing := by
  cases r <;> rfl
@[simp] theorem writeReg_replies (r : RegName) (v : Word) (s : State) : (writeReg r v s).replies = s.replies := by
  cases r <;> rfl

@[simp] theorem writeReg_fsel_out (n : Fin 6) (v : Word) (s : State) : (writeReg (.fsel n) v s).out = s.out := rfl
@[simp] theorem writeReg_fsel_fsel (n : Fin 6) (v : Word) (s : State) :
    (writeReg (.fsel n) v s).fsel = setFsel s.fsel n v := rfl
@[simp] theorem writeReg_set0_out (v : Word) (s : State) : (writeReg .set0 v s).out = setBits s.out v := rfl
@[simp] theorem writeReg_set0_fsel (v : Word) (s : State) : (writeReg .set0 v s).fsel = s.fsel := rfl
@[simp] theorem writeReg_clr0_out (v : Word) (s : State) : (writeReg .clr0 v s).out = clearBits s.out v := rfl
@[simp] theorem writeReg_clr0_fsel (v : Word) (s : State) : (writeReg .clr0 v s).fsel = s.fsel := rfl

/-! ## The register bank -/

@[simp] theorem getFsel_setFsel_same (b : FselBank) (n : Fin 6) (v : Word) : getFsel (setFsel b n v) n = v := by
  fin_cases n <;> rfl

theorem getFsel_setFsel_ne (b : FselBank) (n m : Fin 6) (v : Word) (h : m ≠ n) :
    getFsel (setFsel b n v) m = getFsel b m := by
  fin_cases n <;> fin_cases m <;> first | rfl | exact absurd rfl h

theorem FselBank.ext_get (a b : FselBank) (h : ∀ n, getFsel a n = getFsel b n) : a = b := by
  cases a; cases b
  exact FselBank.mk.injEq .. ▸ ⟨h 0, h 1, h 2, h 3, h 4, h 5⟩

theorem setFsel_getFsel (b : FselBank) (n : Fin 6) : setFsel b n (getFsel b n) = b := by
  fin_cases n <;> rfl

/-! ## Operations in sequence -/

@[simp] theorem resState_done {α : Type} (a : α) (s : State) : resState (.done a s) = s := rfl
@[simp] theorem resState_raised {α : Type} (s : State) : resState (Res.raised s : Res α) = s := rfl
@[simp] theorem andThen_done {α β : Type} (a : α) (s : State) (k : α → State → Res β) :
    andThen (.done a s) k = k a s := rfl
@[simp] theorem andThen_raised {α β : Type} (s : State) (k : α → State → Res β) :
    andThen (.raised s) k = .raised s := rfl

end Sys2Proof.Machine
end

