-- ==== Sys2Proof/Laws/Ops.lean ====
section
/-!
SUPPORT. What each shared operation can do, once: the register an access selects, the two accesses, and the
operations of the Pin Controller and the Blink Sequencer made of them.
-/
namespace Sys2Proof.Machine

/-! ## The register map -/

theorem regAt_regOffset (r : RegName) : regAt (regOffset r) = some r := by
  rcases r with n | _ | _
  · fin_cases n <;> decide
  all_goals decide

theorem regAt_eq_some (off : Int) (r : RegName) (h : regAt off = some r) : off = regOffset r := by
  have := List.find?_some h
  simpa using (of_decide_eq_true this).symm

theorem regOffset_lt (r : RegName) : regOffset r < 0x2C := by
  rcases r with n | _ | _
  · simp only [regOffset]; omega
  all_goals decide

theorem regOffset_aligned (r : RegName) : (regOffset r : Int) % 4 = 0 := by
  rcases r with n | _ | _
  · simp only [regOffset]; omega
  all_goals decide

theorem regOffset_inWindow (p : Params) (r : RegName) : InWindow p (regOffset r) := by
  have := regOffset_lt r
  simp only [InWindow, Params.windowLen]
  omega

/-- Items 1 to 4 of R35 pass exactly for a mapped window and the offset of a register. -/
theorem selectRegister_eq_ok_iff (off : Int) (s : State) (r : RegName) :
    selectRegister off s = .ok r ↔ s.map = .mapped ∧ off = regOffset r := by
  constructor
  · intro h
    simp only [selectRegister] at h
    repeat' split at h
    all_goals first | contradiction | skip
    rename_i hm _ _ _ _ hr
    obtain rfl : _ = r := by simpa using h
    exact ⟨not_not.mp hm, regAt_eq_some off _ hr⟩
  · rintro ⟨hm, rfl⟩
    have hw := regOffset_inWindow s.params r
    simp only [InWindow] at hw
    simp [selectRegister, hm, regOffset_aligned, regAt_regOffset, hw]

/-- A failed check of R35 names a fault whose cause R107 gives. -/
theorem selectRegister_error_legal (off : Int) (s : State) (code : FaultCode)
    (h : selectRegister off s = .error code) : FaultRecord.Legal s.params ⟨code, .off off⟩ := by
  simp only [selectRegister] at h
  repeat' split at h
  all_goals try contradiction
  all_goals obtain rfl : _ = code := by simpa using h
  all_goals simp_all [FaultRecord.Legal, InWindow]

theorem selectRegister_of_not_mapped (off : Int) (s : State) (h : s.map ≠ .mapped) :
    selectRegister off s = .error .notMapped := by
  simp [selectRegister, h]

/-! ## The two accesses -/

/-- A read of FSELn through a mapped window (R67). -/
theorem readReg_fsel (n : Fin 6) (s : State) (h : s.map = .mapped) :
    readReg (regOffset (.fsel n)) s = .done (getFsel s.fsel n) (emit (.rd (regOffset (.fsel n)) (getFsel s.fsel n)) s) := by
  have := (selectRegister_eq_ok_iff (regOffset (.fsel n)) s (.fsel n)).mpr ⟨h, rfl⟩
  simp [readReg, this, regValue]

/-- A read answers a stored value with one event, or raises one legal fault. -/
theorem readReg_cases (off : Int) (s : State) :
    (∃ n : Fin 6, s.map = .mapped ∧ off = regOffset (.fsel n) ∧
      readReg off s = .done (getFsel s.fsel n) (emit (.rd (regOffset (.fsel n)) (getFsel s.fsel n)) s)) ∨
    (∃ code, FaultRecord.Legal s.params ⟨code, .off off⟩ ∧ readReg off s = .raised (raiseFault code (.off off) s)) := by
  rcases h : selectRegister off s with code | r
  · exact .inr ⟨code, selectRegister_error_legal off s code h, by simp [readReg, h]⟩
  · obtain ⟨hm, rfl⟩ := (selectRegister_eq_ok_iff off s r).mp h
    rcases r with n | _ | _
    · exact .inl ⟨n, hm, rfl, readReg_fsel n s hm⟩
    · exact .inr ⟨.writeOnlyRead, .inl rfl, by simp [readReg, h, regValue]⟩
    · exact .inr ⟨.writeOnlyRead, .inr rfl, by simp [readReg, h, regValue]⟩

/-- A write of a register through a mapped window (R68). -/
theorem writeWindow_reg (r : RegName) (v : Word) (s : State) (h : s.map = .mapped) :
    writeWindow (regOffset r) v s = .done () (emit (.wr (regOffset r) v) (writeReg r v s)) := by
  have := (selectRegister_eq_ok_iff (regOffset r) s r).mpr ⟨h, rfl⟩
  simp [writeWindow, this]

/-- A write has its device effect with one event, or raises one legal fault. -/
theorem writeWindow_cases (off : Int) (v : Word) (s : State) :
    (∃ r, s.map = .mapped ∧ off = regOffset r ∧
      writeWindow off v s = .done () (emit (.wr (regOffset r) v) (writeReg r v s))) ∨
    (∃ code, FaultRecord.Legal s.params ⟨code, .off off⟩ ∧
      writeWindow off v s = .raised (raiseFault code (.off off) s)) := by
  rcases h : selectRegister off s with code | r
  · exact .inr ⟨code, selectRegister_error_legal off s code h, by simp [writeWindow, h]⟩
  · obtain ⟨hm, rfl⟩ := (selectRegister_eq_ok_iff off s r).mp h
    exact .inl ⟨r, hm, rfl, writeWindow_reg r v s hm⟩

theorem readReg_of_not_mapped (off : Int) (s : State) (h : s.map ≠ .mapped) :
    readReg off s = .raised (raiseFault .notMapped (.off off) s) := by
  simp [readReg, selectRegister_of_not_mapped off s h]

theorem writeWindow_of_not_mapped (off : Int) (v : Word) (s : State) (h : s.map ≠ .mapped) :
    writeWindow off v s = .raised (raiseFault .notMapped (.off off) s) := by
  simp [writeWindow, selectRegister_of_not_mapped off s h]

theorem writeWindow_set0 (v : Word) (s : State) (h : s.map = .mapped) :
    writeWindow offSet0 v s = .done () (emit (.wr offSet0 v) { s with out := setBits s.out v }) :=
  writeWindow_reg .set0 v s h

theorem writeWindow_clr0 (v : Word) (s : State) (h : s.map = .mapped) :
    writeWindow offClr0 v s = .done () (emit (.wr offClr0 v) { s with out := clearBits s.out v }) :=
  writeWindow_reg .clr0 v s h

/-! ## Pins -/

theorem drivablePin_iff (p : Int) : drivablePin p = true ↔ 0 ≤ p ∧ p ≤ 31 := by
  have : (npinsDrive : Int) = 32 := rfl
  simp only [drivablePin, Bool.and_eq_true, decide_eq_true_eq]; omega

theorem configurablePin_iff (p : Int) : configurablePin p = true ↔ 0 ≤ p ∧ p ≤ 53 := by
  have : (npinsConfig : Int) = 54 := rfl
  simp only [configurablePin, Bool.and_eq_true, decide_eq_true_eq]; omega

theorem drivePinCheck_ok (p : Int) (s : State) (h : drivablePin p = true) : drivePinCheck p s = .done () s := by
  simp [drivePinCheck, h]

theorem drivePinCheck_raised (p : Int) (s : State) (h : drivablePin p = false) :
    drivePinCheck p s = .raised (raiseFault .pinRange (.pin p) s) := by
  simp [drivePinCheck, h]

/-- SET of a drive pin through a mapped window (R71). -/
theorem setPin_mapped (p : Int) (s : State) (hp : drivablePin p = true) (h : s.map = .mapped) :
    setPin p s = .done () (emit (.wr offSet0 (driveMask p.toNat))
      { s with out := setBits s.out (driveMask p.toNat) }) := by
  simp only [setPin, drivePinCheck_ok p s hp, andThen_done, writeWindow_set0 _ s h]

/-- CLEAR of a drive pin through a mapped window (R72). -/
theorem clearPin_mapped (p : Int) (s : State) (hp : drivablePin p = true) (h : s.map = .mapped) :
    clearPin p s = .done () (emit (.wr offClr0 (driveMask p.toNat))
      { s with out := clearBits s.out (driveMask p.toNat) }) := by
  simp only [clearPin, drivePinCheck_ok p s hp, andThen_done, writeWindow_clr0 _ s h]

theorem fselIndex_lt (p : Int) (h : configurablePin p = true) : fselIndex p.toNat < 6 := by
  have := (configurablePin_iff p).mp h
  simp only [fselIndex, pinsPerFsel]; omega

/-- CONFIGURE_AS_OUTPUT through a mapped window (R70): one read, one write of the same register. -/
theorem configureAsOutput_mapped (p : Int) (s : State) (hp : configurablePin p = true) (h : s.map = .mapped) :
    configureAsOutput p s =
      (let n : Fin 6 := ⟨fselIndex p.toNat, fselIndex_lt p hp⟩
       let new := withOutputField (getFsel s.fsel n) p.toNat
       .done () (emit (.wr (4 * n.val) new)
         (writeReg (.fsel n) new (emit (.rd (4 * n.val) (getFsel s.fsel n)) s)))) := by
  have hr := readReg_fsel ⟨fselIndex p.toNat, fselIndex_lt p hp⟩ s h
  have hw := fun v t => writeWindow_reg (.fsel ⟨fselIndex p.toNat, fselIndex_lt p hp⟩) v t
  simp only [regOffset] at hr hw
  simp only [configureAsOutput, hp, if_true, fselOffset, hr, andThen_done]
  exact hw _ _ h

theorem configureAsOutput_out_of_range (p : Int) (s : State) (hp : configurablePin p = false) :
    configureAsOutput p s = .raised (raiseFault .pinRange (.pin p) s) := by
  simp [configureAsOutput, hp]

/-! ## Bits of the output latch -/

theorem getLsbD_setBits (out : BitVec 54) (v : Word) (i : Nat) :
    (setBits out v).getLsbD i = (out.getLsbD i || (decide (i < 32) && v.getLsbD i)) := by
  simp only [setBits, BitVec.getLsbD_or, BitVec.getLsbD_setWidth]
  by_cases hi : i < 32
  · simp [hi, show i < 54 by omega]
  · simp [hi, BitVec.getLsbD_of_ge v i (by omega)]

theorem getLsbD_clearBits (out : BitVec 54) (v : Word) (i : Nat) :
    (clearBits out v).getLsbD i = (out.getLsbD i && !(decide (i < 32) && v.getLsbD i)) := by
  simp only [clearBits, BitVec.getLsbD_and, BitVec.getLsbD_not, BitVec.getLsbD_setWidth]
  by_cases h54 : i < 54
  · by_cases hi : i < 32
    · simp [hi, h54]
    · simp [hi, h54, BitVec.getLsbD_of_ge v i (by omega)]
  · simp [h54, BitVec.getLsbD_of_ge out i (by omega)]

theorem getLsbD_driveMask (p i : Nat) (hp : p < 32) : (driveMask p).getLsbD i = decide (i = p) := by
  have h1 : ∀ k, (1 : Word).getLsbD k = decide (k = 0) := fun k => by simp [BitVec.getLsbD_one]
  simp only [driveMask, BitVec.getLsbD_shiftLeft, h1]
  by_cases hi : i = p
  · subst hi; simp [hp]
  · by_cases hlt : i < p
    · simp [hi, hlt]
    · simp [hi]; omega

end Sys2Proof.Machine
end

