-- ==== Sys2Proof/Laws/PerInstr.lean ====
section
/-!
SUPPORT. The family Encoding: what every instruction's encoding satisfies, one lemma per constructor.
-/
namespace Sys2Proof.Laws.Encoding
open Sys2Proof Sys2Proof.Machine

/-- R50, R51, R59: an instruction is encoded at its row's level; a BUS word has the nine bytes of one access; the text
of a well-formed command fits in one WRITE. -/
def Statement (i : Instr) : Prop :=
  (encode i).level = i.level ∧ (i.level = .bus → (encode i).bytes.length = 9) ∧
    (i.level = .cmd → wellFormed i = true → (encode i).bytes.length ≤ cmdMax)

theorem length_leBytes (k w : Nat) : (leBytes k w).length = k := by
  induction k generalizing w with
  | zero => rfl
  | succ k ih => simp [leBytes, ih]

/-- Every BUS word. -/
theorem of_bus {i : Instr} {isWrite : Bool} {off data : Word} (hl : i.level = .bus)
    (hb : encodeBytes i = busBytes isWrite off data) : Statement i :=
  ⟨rfl, fun _ => (congrArg List.length hb).trans (length_leBytes _ _), fun h => by simp [hl] at h⟩

/-- Every call and request. -/
theorem of_text {i : Instr} (hb : i.level ≠ .bus) (hc : i.level ≠ .cmd) : Statement i :=
  ⟨rfl, fun h => absurd h hb, fun h => absurd h hc⟩

theorem busRdFsel0 (data : Word) : Statement (.busRdFsel0 data) := of_bus rfl rfl
theorem busRdFsel1 (data : Word) : Statement (.busRdFsel1 data) := of_bus rfl rfl
theorem busRdFsel2 (data : Word) : Statement (.busRdFsel2 data) := of_bus rfl rfl
theorem busRdFsel3 (data : Word) : Statement (.busRdFsel3 data) := of_bus rfl rfl
theorem busRdFsel4 (data : Word) : Statement (.busRdFsel4 data) := of_bus rfl rfl
theorem busRdFsel5 (data : Word) : Statement (.busRdFsel5 data) := of_bus rfl rfl
theorem busWrFsel0 (data : Word) : Statement (.busWrFsel0 data) := of_bus rfl rfl
theorem busWrFsel1 (data : Word) : Statement (.busWrFsel1 data) := of_bus rfl rfl
theorem busWrFsel2 (data : Word) : Statement (.busWrFsel2 data) := of_bus rfl rfl
theorem busWrFsel3 (data : Word) : Statement (.busWrFsel3 data) := of_bus rfl rfl
theorem busWrFsel4 (data : Word) : Statement (.busWrFsel4 data) := of_bus rfl rfl
theorem busWrFsel5 (data : Word) : Statement (.busWrFsel5 data) := of_bus rfl rfl
theorem busWrSet0 (data : Word) : Statement (.busWrSet0 data) := of_bus rfl rfl
theorem busWrClr0 (data : Word) : Statement (.busWrClr0 data) := of_bus rfl rfl
theorem map : Statement (.map) := of_text (by decide) (by decide)
theorem unmap : Statement (.unmap) := of_text (by decide) (by decide)
theorem readWord (off : Int) : Statement (.readWord off) := of_text (by simp [Instr.level]) (by simp [Instr.level])
theorem writeWord (off : Int) (v : Word) : Statement (.writeWord off v) := of_text (by simp [Instr.level]) (by simp [Instr.level])
theorem configureAsOutput (p : Int) : Statement (.configureAsOutput p) := of_text (by simp [Instr.level]) (by simp [Instr.level])
theorem set (p : Int) : Statement (.set p) := of_text (by simp [Instr.level]) (by simp [Instr.level])
theorem clear (p : Int) : Statement (.clear p) := of_text (by simp [Instr.level]) (by simp [Instr.level])
theorem blink (p d : Int) : Statement (.blink p d) := of_text (by simp [Instr.level]) (by simp [Instr.level])
theorem delay (ms : Nat) : Statement (.delay ms) := of_text (by simp [Instr.level]) (by simp [Instr.level])
theorem cmdOn (p : Int) : Statement (.cmdOn p) :=
  ⟨rfl, fun h => by simp [Instr.level] at h, fun _ h => by
    simpa [wellFormed, commandFits, encode, encodeBytes] using h⟩
theorem cmdOff (p : Int) : Statement (.cmdOff p) :=
  ⟨rfl, fun h => by simp [Instr.level] at h, fun _ h => by
    simpa [wellFormed, commandFits, encode, encodeBytes] using h⟩
theorem cmdBlink (p : Int) : Statement (.cmdBlink p) :=
  ⟨rfl, fun h => by simp [Instr.level] at h, fun _ h => by
    simpa [wellFormed, commandFits, encode, encodeBytes] using h⟩
theorem cmdUnknown (p : Int) (token : List Byte) : Statement (.cmdUnknown p token) :=
  ⟨rfl, fun h => by simp [Instr.level] at h, fun _ h => by
    have := (Bool.and_eq_true_iff.mp h).1
    simpa [commandFits, encode, encodeBytes] using this⟩
theorem cmdMalformed : Statement (.cmdMalformed) :=
  ⟨rfl, fun h => by simp [Instr.level] at h, fun _ _ => by decide⟩
theorem openChannel : Statement (.openChannel) := of_text (by decide) (by decide)
theorem write (buf : List Byte) (copyInOk : Bool) : Statement (.write buf copyInOk) := of_text (by simp [Instr.level]) (by simp [Instr.level])
theorem read (maxLen : Nat) (off : Int) (copyOutOk : Bool) : Statement (.read maxLen off copyOutOk) := of_text (by simp [Instr.level]) (by simp [Instr.level])
theorem closeChannel : Statement (.closeChannel) := of_text (by decide) (by decide)
theorem startup : Statement (.startup) := of_text (by decide) (by decide)
theorem shutdown : Statement (.shutdown) := of_text (by decide) (by decide)

end Sys2Proof.Laws.Encoding
end

