-- ==== Sys2Proof/Laws/Step.lean ====
section
/-!
SUPPORT. What one step can do, said once: every next state is reached from the state by primitive effects, each of
which changes one thing under one guard. An invariant or a whole-machine rule is then proved by one case per effect.
-/
namespace Sys2Proof.Machine

/-- `q` and `w` may follow `s`'s sequencer and WRITE in progress without breaking what R24 and R86 say of them. -/
def SeqKept (s : State) (q : SeqState) (w : Option Nat) : Prop :=
  s.seq.Ok ∧ (s.writing = none ∨ s.seq ≠ .idle) → q.Ok ∧ (w = none ∨ q ≠ .idle)

/-- The primitive effects. -/
inductive Effect : State → State → Prop where
  | turns (s : State) (a : List Turn) : Effect s { s with agenda := a }
  | queue (s : State) (q : List Held) : Effect s { s with held := q }
  | fault (s : State) (code : FaultCode) (value : FaultValue) (h : FaultRecord.Legal s.params ⟨code, value⟩) :
      Effect s (raiseFault code value s)
  | error (s : State) (msg : List Byte) : Effect s (recordError msg s)
  | answer (s : State) (r : Reply) : Effect s (reply r s)
  | read (s : State) (n : Fin 6) (h : s.map = .mapped) :
      Effect s (emit (.rd (regOffset (.fsel n)) (getFsel s.fsel n)) s)
  | write (s : State) (r : RegName) (v : Word) (h : s.map = .mapped) :
      Effect s (emit (.wr (regOffset r) v) (writeReg r v s))
  | wait (s : State) (ms : Nat) : Effect s (delay ms s)
  | granted (s : State) (base : Nat) (h : s.map = .preMap) :
      Effect s (emit (.mapAnswered true) { s with map := .mapped, vbase := base })
  | refused (s : State) (h : s.map = .preMap) :
      Effect s (emit (.mapAnswered false) { s with map := .mapFailed })
  | unmapped (s : State) (h : s.map = .mapped) : Effect s (emit .unmapped { s with map := .unmapped })
  | sequence (s : State) (q : SeqState) (w : Option Nat) (h : SeqKept s q w) :
      Effect s { s with seq := q, writing := w }

/-- Some effects, one after another. -/
abbrev Effects : State → State → Prop := Relation.ReflTransGen Effect

theorem Effects.keeps {P : State → State → Prop} (hrefl : ∀ s, P s s)
    (htrans : ∀ s t u, P s t → Effect t u → P s u) {s t : State} (h : Effects s t) : P s t := by
  induction h with
  | refl => exact hrefl s
  | tail _ hu ih => exact htrans _ _ _ ih hu

/-- Idle is always allowed next, without a WRITE in progress. -/
theorem seqKept_idle (s : State) : SeqKept s .idle none := fun _ => ⟨trivial, .inl rfl⟩

/-! ## The operations -/

theorem effects_readReg (off : Int) (s : State) : Effects s (resState (readReg off s)) := by
  obtain ⟨n, hm, _, h⟩ | ⟨code, hl, h⟩ := readReg_cases off s
  · rw [h]; exact .single (.read s n hm)
  · rw [h]; exact .single (.fault s code _ hl)

theorem effects_writeWindow (off : Int) (v : Word) (s : State) : Effects s (resState (writeWindow off v s)) := by
  obtain ⟨r, hm, _, h⟩ | ⟨code, hl, h⟩ := writeWindow_cases off v s
  · rw [h]; exact .single (.write s r v hm)
  · rw [h]; exact .single (.fault s code _ hl)

theorem effects_andThen {α β : Type} {s : State} {r : Res α} {k : α → State → Res β}
    (hr : Effects s (resState r)) (hk : ∀ a t, r = .done a t → Effects t (resState (k a t))) :
    Effects s (resState (andThen r k)) := by
  cases r with
  | done a t => exact hr.trans (hk a t rfl)
  | raised t => exact hr

theorem effects_drivePinCheck (p : Int) (s : State) : Effects s (resState (drivePinCheck p s)) := by
  rcases h : drivablePin p with _ | _
  · rw [drivePinCheck_raised p s h]
    exact .single (.fault s _ _ (by
      have := (drivablePin_iff p).not.mp (by simp [h])
      simpa [FaultRecord.Legal] using this))
  · rw [drivePinCheck_ok p s h]; exact .refl

theorem effects_setPin (p : Int) (s : State) : Effects s (resState (setPin p s)) :=
  effects_andThen (effects_drivePinCheck p s) fun _ t _ => effects_writeWindow _ _ t

theorem effects_clearPin (p : Int) (s : State) : Effects s (resState (clearPin p s)) :=
  effects_andThen (effects_drivePinCheck p s) fun _ t _ => effects_writeWindow _ _ t

theorem effects_configureAsOutput (p : Int) (s : State) : Effects s (resState (configureAsOutput p s)) := by
  rcases h : configurablePin p with _ | _
  · rw [configureAsOutput_out_of_range p s h]
    exact .single (.fault s _ _ (by
      have := (configurablePin_iff p).not.mp (by simp [h])
      simp only [FaultRecord.Legal]; omega))
  · simp only [configureAsOutput, h, if_true]
    exact effects_andThen (effects_readReg _ s) fun _ t _ => effects_writeWindow _ _ t

theorem effects_startBlink (p d : Int) (s : State) : Effects s (resState (startBlink p d s)) := by
  simp only [startBlink]
  split
  · rename_i h
    exact .single (.fault s _ _ h)
  · refine effects_andThen (effects_drivePinCheck p s) fun _ t ht => ?_
    split
    · exact .refl
    · rename_i hc
      exact .single (.sequence t _ t.writing fun _ => ⟨Nat.one_le_iff_ne_zero.mpr hc, .inr nofun⟩)

theorem effects_endBlink (s : State) : Effects s (endBlink s) := by
  simp only [endBlink]
  split
  · rename_i hw
    have := Effect.sequence s .idle none (seqKept_idle s)
    rw [← hw] at this
    exact .single this
  · exact .tail (.single (.sequence s .idle none (seqKept_idle s))) (.answer _ _)

theorem effects_abandonOnFault {s : State} {r : Res Unit} (h : Effects s (resState r)) :
    Effects s (resState (abandonOnFault r)) := by
  cases r with
  | done a t => exact h
  | raised t => exact h.tail (.sequence t .idle none (seqKept_idle t))

theorem effects_sequencerStep (s : State) : Effects s (resState (sequencerStep s)) := by
  have busy : ∀ (t : State) (p : Fin 32) (r : Nat) (ph : Phase), (s.seq.Ok → 1 ≤ r) → t.seq = s.seq →
      SeqKept t (.blinking p r ph) t.writing := by
    intro t p r ph h hs hk
    exact ⟨h (hs ▸ hk.1), .inr nofun⟩
  simp only [sequencerStep]
  split
  · exact .refl
  · rename_i p r hq
    obtain ⟨_, _, _, h⟩ | ⟨code, hl, h⟩ := writeWindow_cases offSet0 (driveMask p.val) s
    · rw [h]
      exact .tail (.single (.write s _ _ ‹_›)) (.sequence _ _ _ (busy _ p r _ (by simp [hq]) (by simp)))
    · rw [h]; exact effects_abandonOnFault (r := .raised _) (.single (.fault s code _ hl))
  · rename_i p r hq
    exact .tail (.single (.wait s _)) (.sequence _ _ _ (busy _ p r _ (by simp [hq]) rfl))
  · rename_i p r hq
    obtain ⟨_, _, _, h⟩ | ⟨code, hl, h⟩ := writeWindow_cases offClr0 (driveMask p.val) s
    · rw [h]
      exact .tail (.single (.write s _ _ ‹_›)) (.sequence _ _ _ (busy _ p r _ (by simp [hq]) (by simp)))
    · rw [h]; exact effects_abandonOnFault (r := .raised _) (.single (.fault s code _ hl))
  · rename_i p r hq
    split
    · exact Relation.ReflTransGen.trans (.single (.wait s _)) (effects_endBlink _)
    · exact .tail (.single (.wait s _)) (.sequence _ _ _ (busy _ p (r - 1) _ (by simp [hq]; omega) rfl))

theorem effects_mapWindow (s : State) : Effects s (resState (mapWindow s)) := by
  simp only [mapWindow]
  split
  · rename_i h
    exact .single (.fault s _ _ h)
  · rename_i h
    split
    · exact .single (.granted s _ (not_not.mp h))
    · exact .single (.refused s (not_not.mp h))

theorem effects_unmapWindow (s : State) : Effects s (resState (unmapWindow s)) := by
  simp only [unmapWindow]
  split
  · rename_i h
    exact .single (.fault s _ _ h)
  · rename_i h
    split
    · rename_i hq
      exact .single (.fault s _ _ hq)
    · exact .single (.unmapped s (not_not.mp h))

theorem effects_interpret (r : Parsed) (s : State) : Effects s (resState (interpret r s)) := by
  simp only [interpret]
  split
  · exact .single (.error s _)
  · split
    · exact .single (.error s _)
    · split
      · rename_i a _ _
        cases a
        · exact effects_setPin _ s
        · exact effects_clearPin _ s
        · exact effects_startBlink _ _ s
      · exact .single (.error s _)

theorem effects_runWrite (buf : List Byte) (ok : Bool) (s : State) : Effects s (runWrite buf ok s) := by
  simp only [runWrite]
  split
  · have := effects_interpret (parse (effectiveText buf)) s
    split
    · rename_i h; simpa [h] using this
    · rename_i t h
      rw [h] at this
      split
      · exact this.tail (.answer _ _)
      · rename_i hq
        exact this.tail (.sequence _ t.seq _ fun hk => ⟨hk.1, .inr hq⟩)
  · exact .single (.answer s _)

theorem effects_forEachPin (op : Int → State → Res Unit) (hop : ∀ p s, Effects s (resState (op p s)))
    (qs : List (Fin 32)) (s : State) : Effects s (resState (forEachPin op qs s)) := by
  induction qs generalizing s with
  | nil => exact .refl
  | cons q qs ih => exact effects_andThen (hop _ s) fun _ t _ => ih t

theorem effects_finish {α : Type} {s t : State} {r : Res α} (hr : Effects s (resState r)) (h : finish r = .next t) :
    Effects s t := by
  cases h
  exact hr

theorem effects_finishRead {s t : State} {r : Res Word} (hr : Effects s (resState r)) (h : finishRead r = .next t) :
    Effects s t := by
  cases r with
  | done v u => cases h; exact hr.tail (.answer _ _)
  | raised u => cases h; exact hr

theorem effects_commandEntry (r : Parsed) (s t : State) (h : commandEntry r s = .next t) : Effects s t := by
  simp only [commandEntry] at h
  split at h
  · cases h
  · split at h
    · exact effects_finish (effects_interpret r s) h
    · cases h; exact .single (.queue s _)

/-- Every next state of an operation is reached by primitive effects. -/
theorem effects_exec (i : Instr) (s t : State) (h : exec i s = .next t) : Effects s t := by
  cases i with
  | busRdFsel0 d => exact effects_finishRead (effects_readReg _ s) h
  | busRdFsel1 d => exact effects_finishRead (effects_readReg _ s) h
  | busRdFsel2 d => exact effects_finishRead (effects_readReg _ s) h
  | busRdFsel3 d => exact effects_finishRead (effects_readReg _ s) h
  | busRdFsel4 d => exact effects_finishRead (effects_readReg _ s) h
  | busRdFsel5 d => exact effects_finishRead (effects_readReg _ s) h
  | busWrFsel0 d => exact effects_finish (effects_writeWindow _ _ s) h
  | busWrFsel1 d => exact effects_finish (effects_writeWindow _ _ s) h
  | busWrFsel2 d => exact effects_finish (effects_writeWindow _ _ s) h
  | busWrFsel3 d => exact effects_finish (effects_writeWindow _ _ s) h
  | busWrFsel4 d => exact effects_finish (effects_writeWindow _ _ s) h
  | busWrFsel5 d => exact effects_finish (effects_writeWindow _ _ s) h
  | busWrSet0 d => exact effects_finish (effects_writeWindow _ _ s) h
  | busWrClr0 d => exact effects_finish (effects_writeWindow _ _ s) h
  | map =>
    have := effects_mapWindow s
    simp only [exec, execMap] at h
    split at h <;> rename_i hr <;> rw [hr] at this <;> cases h
    · exact this.tail (.answer _ _)
    · exact this
    · exact this
  | unmap => exact effects_finish (effects_unmapWindow s) h
  | readWord off => exact effects_finishRead (effects_readReg _ s) h
  | writeWord off v => exact effects_finish (effects_writeWindow _ _ s) h
  | configureAsOutput p => exact effects_finish (effects_configureAsOutput p s) h
  | set p => exact effects_finish (effects_setPin p s) h
  | clear p => exact effects_finish (effects_clearPin p s) h
  | blink p d => exact effects_finish (effects_startBlink p d s) h
  | delay ms => cases h; exact .single (.wait s ms)
  | cmdOn p => exact effects_commandEntry _ s t h
  | cmdOff p => exact effects_commandEntry _ s t h
  | cmdBlink p => exact effects_commandEntry _ s t h
  | cmdUnknown p token => exact effects_commandEntry _ s t h
  | cmdMalformed => exact effects_commandEntry _ s t h
  | openChannel =>
    simp only [exec, execOpen] at h
    split at h <;> cases h
    exact .single (.answer s _)
  | write buf ok =>
    simp only [exec, execWrite] at h
    split at h
    · cases h
    · split at h <;> cases h
      · exact effects_runWrite buf ok s
      · exact .single (.queue s _)
  | read n off ok =>
    simp only [exec, execRead] at h
    repeat' split at h
    all_goals first | cases h; exact .single (.answer s _) | cases h
  | closeChannel =>
    simp only [exec, execClose] at h
    split at h <;> cases h
    exact .single (.answer s _)
  | startup =>
    have hm := effects_mapWindow s
    simp only [exec, execStartup] at h
    split at h <;> rename_i hr <;> rw [hr] at hm
    · cases h; exact hm
    · cases h; exact hm.tail (.answer _ _)
    · rename_i u
      have hf := effects_forEachPin _ effects_configureAsOutput u.params.ledPins.list u
      split at h <;> rename_i hr' <;> rw [hr'] at hf <;> cases h
      · exact hm.trans hf
      · exact (hm.trans hf).tail (.answer _ _)
  | shutdown =>
    simp only [exec, execShutdown] at h
    split at h
    · rename_i hm
      cases h
      exact .single (.fault s _ _ hm)
    · split at h
      · have hc := effects_andThen (effects_forEachPin _ effects_clearPin s.params.ledPins.list s)
          (k := fun _ t => unmapWindow t) fun _ t _ => effects_unmapWindow t
        split at h <;> rename_i hr <;> rw [hr] at hc <;> cases h
        · exact hc
        · exact hc.tail (.answer _ _)
      · cases h

theorem effects_runHeld (w : Held) (s t : State) (h : runHeld w s = .next t) : Effects s t := by
  simp only [runHeld] at h
  split at h
  · cases h
  · split at h
    · cases h; exact effects_runWrite _ _ s
    · exact effects_finish (effects_interpret _ s) h

theorem effects_executorMove (s t : State) (h : executorMove s = .next t) : Effects s t := by
  simp only [executorMove] at h
  split at h
  · exact effects_finish (effects_sequencerStep s) h
  · split at h
    · cases h; exact .refl
    · exact .trans (.single (.queue s _)) (effects_runHeld _ _ t h)

theorem effects_rejectRequest (e : DecodeError) (s t : State) (h : rejectRequest e s = .next t) : Effects s t := by
  cases e with
  | busNoRow w off data =>
    simp only [rejectRequest] at h
    split at h
    · exact effects_finish (effects_writeWindow _ _ s) h
    · exact effects_finishRead (effects_readReg _ s) h
  | busWidth => cases h
  | noSuchOperation => cases h
  | noSuchRequest => cases h

/-- Where a next state of a step comes from: the Executor's own move, with a turn of its own taken off the agenda or
none, an operation that R102 does not exclude, or the answer to a request that is no operation. -/
theorem step_cases (s t : State) (h : step s = .next t) :
    executorMove s = .next t ∨
    (∃ rest, s.agenda = .executor :: rest ∧ executorMove { s with agenda := rest } = .next t) ∨
    (∃ c rest i, s.agenda = .request c :: rest ∧ decode c = .ok i ∧
      (waitsForExecutor c = true → executorFree s = true) ∧ excludedByHostDuty i s = false ∧
      exec i { s with agenda := rest } = .next t) ∨
    ∃ c rest e, s.agenda = .request c :: rest ∧ decode c = .error e ∧
      rejectRequest e { s with agenda := rest } = .next t := by
  rcases ha : s.agenda with _ | ⟨c | _, rest⟩
  · exact .inl (by simpa [step, nextMove, ha] using h)
  · by_cases hw : (waitsForExecutor c && !executorFree s) = true
    · exact .inl (by simpa [step, nextMove, ha, hw] using h)
    · rcases hd : decode c with e | i
      · exact .inr (.inr (.inr ⟨c, rest, e, rfl, hd, by simpa [step, nextMove, ha, hw, hd] using h⟩))
      · by_cases hx : excludedByHostDuty i s = true
        · simp [step, nextMove, ha, hw, hd, hx] at h
        · exact .inr (.inr (.inl ⟨c, rest, i, rfl, hd, by simpa using hw, by simpa using hx,
            by simpa [step, nextMove, ha, hw, hd, hx] using h⟩))
  · exact .inr (.inl ⟨rest, rfl, by simpa [step, nextMove, ha] using h⟩)

/-- Every next state of a step is reached by primitive effects. -/
theorem effects_step (s t : State) (h : step s = .next t) : Effects s t := by
  obtain h | ⟨rest, _, h⟩ | ⟨_, rest, i, _, _, _, _, h⟩ | ⟨_, rest, e, _, _, h⟩ := step_cases s t h
  · exact effects_executorMove s t h
  · exact .trans (.single (.turns s rest)) (effects_executorMove _ t h)
  · exact .trans (.single (.turns s rest)) (effects_exec i _ t h)
  · exact .trans (.single (.turns s rest)) (effects_rejectRequest e _ t h)

end Sys2Proof.Machine
end

