-- ==== Sys2Proof/Tests/Slice0.lean ====
section
/-!
SUPPORT. The model's own tests: decoding of words and texts written out from the spec, well-formedness, one-step
tests from 95_test_vectors.md, and for every statement with hypotheses a state and operands that meet them.
-/
namespace Sys2Proof.Tests
open Sys2Proof Sys2Proof.Machine

/-! ## A small state (95_test_vectors.md: "Unless a vector says otherwise, its start state is") -/

def noFsel : FselBank := ⟨0, 0, 0, 0, 0, 0⟩
def leds : LedPins := ⟨17, 27, 22⟩
/-- At launch, with a mapping that will be granted. -/
def atLaunch : State := State.launch ⟨0x3F200000, 0, leds, .granted 0x1000⟩ noFsel 0
/-- At launch, with a mapping that will be refused. -/
def toBeRefused : State := State.launch ⟨0x3F200000, 0, leds, .refused .permissionDenied⟩ noFsel 0
/-- Mapped and idle. -/
def ready : State := { atLaunch with map := .mapped, vbase := 0x1000 }
/-- A blink of pin 7 is running. -/
def blinking (r : Nat) (ph : Phase) : State := { ready with seq := .blinking 7 r ph }
/-- "Unknown action: dance" (V91, V101). -/
def danceMessage : List Byte :=
  [0x55, 0x6E, 0x6B, 0x6E, 0x6F, 0x77, 0x6E, 0x20, 0x61, 0x63, 0x74, 0x69, 0x6F, 0x6E, 0x3A, 0x20,
   0x64, 0x61, 0x6E, 0x63, 0x65]
/-- A bit set of OUT. -/
def pins (ps : List Nat) : BitVec 54 := ps.foldl (fun b p => b ||| (1 : BitVec 54) <<< p) 0
/-- What an outcome's next state shows; nothing for a refusal. -/
def look {α : Type} (f : State → α) : Host.Outcome State Fault Refusal → Option α
  | .next s => some (f s)
  | .fault _ => none
  | .refused _ => none
/-- Why an outcome is refused. -/
def whyRefused : Host.Outcome State Fault Refusal → Option Refusal
  | .next _ => none
  | .fault _ => none
  | .refused r => some r
/-- What an encoded request decodes to. -/
def read? (l : Level) (bs : List Byte) : Option Instr := (decode ⟨l, bs⟩).toOption
/-- The trace and the replies. -/
def shown (s : State) : List Event × List Reply := (s.trace, s.replies)

/-! ## Decoding: every constructor, from words written out from R51, R56 and R63 -/

/-- kind = 0, off = 4n, data, as nine bytes, byte 0 first (R51, opcode_table.json "match"). -/
theorem test_decode_bus_reads :
  read? .bus [0x00, 0, 0, 0x80, 0x00, 0, 0, 0, 0] = some (.busRdFsel0 0x80000000) ∧
  read? .bus [0x11, 0, 0, 0x80, 0x04, 0, 0, 0, 0] = some (.busRdFsel1 0x80000011) ∧
  read? .bus [0x22, 0, 0, 0x80, 0x08, 0, 0, 0, 0] = some (.busRdFsel2 0x80000022) ∧
  read? .bus [0x33, 0, 0, 0x80, 0x0C, 0, 0, 0, 0] = some (.busRdFsel3 0x80000033) ∧
  read? .bus [0x44, 0, 0, 0x80, 0x10, 0, 0, 0, 0] = some (.busRdFsel4 0x80000044) ∧
  read? .bus [0x55, 0, 0, 0x80, 0x14, 0, 0, 0, 0] = some (.busRdFsel5 0x80000055) := by decide

/-- kind = 1. -/
theorem test_decode_bus_writes :
  read? .bus [0xFF, 0x0F, 0, 0xC0, 0x00, 0, 0, 0, 1] = some (.busWrFsel0 0xC0000FFF) ∧
  read? .bus [0xFF, 0x0F, 0, 0xC0, 0x04, 0, 0, 0, 1] = some (.busWrFsel1 0xC0000FFF) ∧
  read? .bus [0xFF, 0x0F, 0, 0xC0, 0x08, 0, 0, 0, 1] = some (.busWrFsel2 0xC0000FFF) ∧
  read? .bus [0xFF, 0x0F, 0, 0xC0, 0x0C, 0, 0, 0, 1] = some (.busWrFsel3 0xC0000FFF) ∧
  read? .bus [0xFF, 0x0F, 0, 0xC0, 0x10, 0, 0, 0, 1] = some (.busWrFsel4 0xC0000FFF) ∧
  read? .bus [0xFF, 0x0F, 0, 0xC0, 0x14, 0, 0, 0, 1] = some (.busWrFsel5 0xC0000FFF) ∧
  read? .bus [0, 0, 0x20, 0, 0x1C, 0, 0, 0, 1] = some (.busWrSet0 0x00200000) ∧
  read? .bus [0, 0, 0, 0x80, 0x28, 0, 0, 0, 1] = some (.busWrClr0 0x80000000) := by decide

/-- Values that match no row (R51), and what is no 65-bit value (R33). -/
theorem test_decode_bus_refused :
  read? .bus [0, 0, 0, 0, 0x1C, 0, 0, 0, 0] = none ∧ read? .bus [0, 0, 0, 0, 0x18, 0, 0, 0, 1] = none ∧
  read? .bus [0, 0, 0, 0, 0x00, 1, 0, 0, 0] = none ∧ read? .bus [0, 0, 0, 0, 0, 0, 0, 0, 2] = none ∧
  read? .bus [0, 0, 0, 0] = none := by decide

/-- The match words of opcode_table.json as table words. -/
theorem test_decode_table_words :
  decodeTableWord 72 0x0 = some (.busRdFsel0 0) ∧ decodeTableWord 72 0xC00000005 = some (.busRdFsel3 5) ∧
  decodeTableWord 72 0x10000001400000000 = some (.busWrFsel5 0) ∧
  decodeTableWord 72 0x10000002800000001 = some (.busWrClr0 1) := by decide

/-- The syntax of R63, as 95_test_vectors.md writes it. -/
theorem test_decode_op :
  read? .op (ascii ['M', 'A', 'P']) =
    some .map ∧
  read? .op (ascii ['U', 'N', 'M', 'A', 'P']) =
    some .unmap ∧
  read? .op (ascii ['R', 'E', 'A', 'D', '_', 'W', 'O', 'R', 'D', '(', '0', 'x', '0', 'C', ')']) =
    some (.readWord 0x0C) ∧
  read? .op (ascii ['R', 'E', 'A', 'D', '_', 'W', 'O', 'R', 'D', '(', '-', '4', ')']) =
    some (.readWord (-4)) ∧
  read? .op (ascii ['W', 'R', 'I', 'T', 'E', '_', 'W', 'O', 'R', 'D', '(', '0', 'x', '1', 'C', ',', ' ', '0', 'x', '0', '0', '0', '0', '0', '0', '0', '3', ')']) =
    some (.writeWord 0x1C 3) ∧
  read? .op (ascii ['C', 'O', 'N', 'F', 'I', 'G', 'U', 'R', 'E', '_', 'A', 'S', '_', 'O', 'U', 'T', 'P', 'U', 'T', '(', '5', '3', ')']) =
    some (.configureAsOutput 53) ∧
  read? .op (ascii ['S', 'E', 'T', '(', '5', ')']) =
    some (.set 5) ∧
  read? .op (ascii ['C', 'L', 'E', 'A', 'R', '(', '-', '1', ')']) =
    some (.clear (-1)) ∧
  read? .op (ascii ['B', 'L', 'I', 'N', 'K', '(', '2', '1', ',', ' ', '-', '1', '0', '0', ')']) =
    some (.blink 21 (-100)) ∧
  read? .op (ascii ['D', 'E', 'L', 'A', 'Y', '(', '5', '0', ')']) =
    some (.delay 50) := by decide

/-- Not operations: an unknown name, a missing argument, a value of more than 32 bits, a delay of 0 (R68, R79). -/
theorem test_decode_op_refused :
  read? .op (ascii ['T', 'O', 'G', 'G', 'L', 'E', '(', '5', ')']) = none ∧
  read? .op (ascii ['S', 'E', 'T', '(', ')']) = none ∧
  read? .op (ascii ['W', 'R', 'I', 'T', 'E', '_', 'W', 'O', 'R', 'D', '(', '0', 'x', '1', 'C', ',', ' ', '4', '2', '9', '4', '9', '6', '7', '2', '9', '6', ')']) = none ∧
  read? .op (ascii ['D', 'E', 'L', 'A', 'Y', '(', '0', ')']) = none := by decide

/-- V61, V65, V91 (R89, R90), V77 (R91), V73, V75, V76, V72 (R92). -/
theorem test_decode_cmd :
  read? .cmd [0x32, 0x31, 0x3A, 0x6F, 0x6E] = some (.cmdOn 21) ∧
  read? .cmd [0x2B, 0x32, 0x31, 0x3A, 0x6F, 0x6E] = some (.cmdOn 21) ∧
  read? .cmd [0x30, 0x30, 0x37, 0x3A, 0x6F, 0x6E] = some (.cmdOn 7) ∧
  read? .cmd [0x20, 0x09, 0x32, 0x31, 0x3A, 0x20, 0x6F, 0x66, 0x66, 0x0D, 0x0A] = some (.cmdOff 21) ∧
  read? .cmd [0x2D, 0x30, 0x3A, 0x6F, 0x66, 0x66] = some (.cmdOff 0) ∧
  read? .cmd [0x32, 0x31, 0x3A, 0x62, 0x6C, 0x69, 0x6E, 0x6B, 0x20, 0x35, 0x30, 0x30] = some (.cmdBlink 21) ∧
  read? .cmd [0x2D, 0x31, 0x3A, 0x6F, 0x6E] = some (.cmdOn (-1)) ∧
  read? .cmd [0x32, 0x31, 0x3A, 0x4F, 0x4E] = some (.cmdUnknown 21 [0x4F, 0x4E]) ∧
  read? .cmd [0x32, 0x31, 0x3A, 0x6F, 0x66, 0x66, 0x66] = some (.cmdUnknown 21 [0x6F, 0x66, 0x66, 0x66]) ∧
  read? .cmd [0x32, 0x31, 0x3A, 0x62, 0x6C, 0x69, 0x6E, 0x6B, 0x62, 0x6C, 0x69, 0x6E, 0x6B] = some (.cmdUnknown 21 [0x62, 0x6C, 0x69, 0x6E, 0x6B, 0x62, 0x6C, 0x69, 0x6E]) ∧
  read? .cmd [0x34, 0x30, 0x3A, 0x64, 0x61, 0x6E, 0x63, 0x65] = some (.cmdUnknown 40 [0x64, 0x61, 0x6E, 0x63, 0x65]) ∧
  read? .cmd [0x32, 0x31, 0x3A, 0x6F, 0x6E, 0x00, 0x34, 0x30, 0x3A, 0x64, 0x61, 0x6E, 0x63, 0x65] = some (.cmdOn 21) := by decide

/-- V71 and V90: a pin field of twenty digits, and a text of more than 255 bytes. -/
theorem test_decode_cmd_long :
  read? .cmd (List.replicate 20 0x39 ++ [0x3A, 0x6F, 0x6E]) = some (.cmdOn 99999999999999999999) ∧
  read? .cmd ([0x32, 0x31, 0x3A, 0x6F, 0x6E] ++ List.replicate 295 0x20) = some (.cmdOn 21) := by decide

/-- V78 to V88 (R93). -/
theorem test_decode_cmd_malformed :
  read? .cmd [] = some .cmdMalformed ∧
  read? .cmd [0x67, 0x61, 0x72, 0x62, 0x61, 0x67, 0x65] = some .cmdMalformed ∧
  read? .cmd [0x32, 0x31, 0x20, 0x3A, 0x6F, 0x6E] = some .cmdMalformed ∧
  read? .cmd [0x32, 0x31, 0x3A] = some .cmdMalformed ∧
  read? .cmd [0x32, 0x31, 0x3A, 0x20] = some .cmdMalformed ∧
  read? .cmd [0x3A, 0x6F, 0x6E] = some .cmdMalformed ∧
  read? .cmd [0x32, 0x31, 0x6F, 0x6E] = some .cmdMalformed ∧
  read? .cmd [0x78, 0x32, 0x31, 0x3A, 0x6F, 0x6E] = some .cmdMalformed ∧
  read? .cmd [0x2B, 0x3A, 0x6F, 0x6E] = some .cmdMalformed ∧
  read? .cmd [0x30, 0x78, 0x31, 0x30, 0x3A, 0x6F, 0x6E] = some .cmdMalformed ∧
  read? .cmd [0x00, 0x32, 0x31, 0x3A, 0x6F, 0x6E] = some .cmdMalformed := by decide

/-- The Host's requests of R63 and 95_test_vectors.md section 3; C escapes; the draws of V99 and V100. -/
theorem test_decode_host :
  read? .host (ascii ['O', 'P', 'E', 'N']) =
    some .openChannel ∧
  read? .host (ascii ['C', 'L', 'O', 'S', 'E']) =
    some .closeChannel ∧
  read? .host (ascii ['S', 'T', 'A', 'R', 'T', 'U', 'P']) =
    some .startup ∧
  read? .host (ascii ['S', 'H', 'U', 'T', 'D', 'O', 'W', 'N']) =
    some .shutdown ∧
  read? .host (ascii ['W', 'R', 'I', 'T', 'E', ' ', '"', '1', '7', ':', 'o', 'n', '\\', 'n', '"']) =
    some (.write [0x31, 0x37, 0x3A, 0x6F, 0x6E, 0x0A] true) ∧
  read? .host (ascii ['W', 'R', 'I', 'T', 'E', ' ', '"', '\\', '0', '\\', 'x', '4', '1', '\\', '"', '"']) =
    some (.write [0x00, 0x41, 0x22] true) ∧
  read? .host (ascii ['W', 'R', 'I', 'T', 'E', ' ', '"', '\\', '?', '"']) =
    some (.write [0x3F] true) ∧
  read? .host (ascii ['W', 'R', 'I', 'T', 'E', ' ', '"', '5', '"', ',', ' ', 'C', 'O', 'P', 'Y', '_', 'I', 'N', '_', 'O', 'K', ' ', '=', ' ', 'f', 'a', 'l', 's', 'e']) =
    some (.write [0x35] false) ∧
  read? .host (ascii ['R', 'E', 'A', 'D', ' ', '2', '5', '6', ' ', '1', '6']) =
    some (.read 256 16 true) ∧
  read? .host (ascii ['R', 'E', 'A', 'D', ' ', '2', '5', '6', ' ', '-', '1']) =
    some (.read 256 (-1) true) ∧
  read? .host (ascii ['R', 'E', 'A', 'D', ' ', '4', ' ', '0', ',', ' ', 'C', 'O', 'P', 'Y', '_', 'O', 'U', 'T', '_', 'O', 'K', ' ', '=', ' ', 'f', 'a', 'l', 's', 'e']) =
    some (.read 4 0 false) := by decide

/-- Not requests. -/
theorem test_decode_host_refused :
  read? .host (ascii ['I', 'O', 'C', 'T', 'L']) = none ∧
  read? .host (ascii ['W', 'R', 'I', 'T', 'E', ' ', '"', '5']) = none ∧
  read? .host (ascii ['R', 'E', 'A', 'D', ' ', '2', '5', '6']) = none ∧
  read? .host (ascii ['W', 'R', 'I', 'T', 'E', ' ', '"', '\\', 'q', '"']) = none := by decide

/-- The encoder, on one instruction of each level (R51, R63, R56). -/
theorem test_encode :
  encode (.busWrSet0 0x00200000) = ⟨.bus, [0, 0, 0x20, 0, 0x1C, 0, 0, 0, 1]⟩ ∧
  encode (.set 31) = ⟨.op, [0x53, 0x45, 0x54, 0x28, 0x33, 0x31, 0x29]⟩ ∧
  encode (.cmdOff 21) = ⟨.cmd, [0x32, 0x31, 0x3A, 0x6F, 0x66, 0x66]⟩ ∧
  encode .openChannel = ⟨.host, [0x4F, 0x50, 0x45, 0x4E]⟩ := by decide

/-! ## Well-formedness: an ill-formed term for each check -/

theorem test_wellFormed_refuses_delay_zero : wellFormed (.delay 0) = false ∧ wellFormed (.delay 1) = true := by
  decide
/-- A pin field of 252 digits and ":on" fill 255 bytes (R59); one digit more does not fit. -/
theorem test_wellFormed_refuses_long_commands :
    wellFormed (.cmdOn (10 ^ 252)) = false ∧ wellFormed (.cmdOff (10 ^ 251)) = false ∧
    wellFormed (.cmdBlink (10 ^ 249)) = false ∧ wellFormed (.cmdUnknown (10 ^ 253) [0x41]) = false ∧
    wellFormed (.cmdOn (10 ^ 251)) = true := by
  decide +kernel
/-- Empty, too long, with a space, with 0x00, and one of the three actions (R56, R58, R60). -/
theorem test_wellFormed_refuses_tokens :
    wellFormed (.cmdUnknown 21 []) = false ∧ wellFormed (.cmdUnknown 21 (List.replicate 10 0x41)) = false ∧
    wellFormed (.cmdUnknown 21 [0x41, 0x20]) = false ∧ wellFormed (.cmdUnknown 21 [0x00]) = false ∧
    wellFormed (.cmdUnknown 21 [0x6F, 0x6E]) = false ∧ wellFormed (.cmdUnknown 21 (List.replicate 9 0x41)) = true := by
  decide

/-! ## One step: the vectors of 95_test_vectors.md -/

/-- V1, V2, V3. -/
theorem test_map :
    look (fun s => (s.map, s.vbase, s.trace)) (exec .map atLaunch) = some (.mapped, 0x1000, [.mapAnswered true]) ∧
    look (fun s => (s.map, s.faults, s.replies)) (exec .map toBeRefused) =
      some (.mapFailed, [], [.error .eMap (some .permissionDenied)]) ∧
    look (fun s => (s.faults, s.trace)) (exec .map ready) = some ([⟨.doubleMap, .map .mapped⟩], []) := by
  decide
/-- V20, V21, V22. -/
theorem test_unmap :
    look (fun s => (s.map, s.trace)) (exec .unmap ready) = some (.unmapped, [.unmapped]) ∧
    look (·.faults) (exec .unmap { ready with map := .unmapped }) = some [⟨.doubleUnmap, .map .unmapped⟩] ∧
    look (·.faults) (exec .unmap atLaunch) = some [⟨.doubleUnmap, .map .preMap⟩] := by
  decide
/-- V5 to V9, V11, V13, V14: the order of the checks. -/
theorem test_readWord_faults :
    look (·.faults) (exec (.readWord 0x02) atLaunch) = some [⟨.notMapped, .off 0x02⟩] ∧
    look (·.faults) (exec (.readWord 0x02) ready) = some [⟨.misaligned, .off 0x02⟩] ∧
    look (·.faults) (exec (.readWord 0x2D) ready) = some [⟨.misaligned, .off 0x2D⟩] ∧
    look (·.faults) (exec (.readWord 0x2C) ready) = some [⟨.outOfWindow, .off 0x2C⟩] ∧
    look (·.faults) (exec (.writeWord (-4) 0) ready) = some [⟨.outOfWindow, .off (-4)⟩] ∧
    look (·.faults) (exec (.readWord 0x18) ready) = some [⟨.undefinedRegister, .off 0x18⟩] ∧
    look (·.faults) (exec (.readWord 0x1C) ready) = some [⟨.writeOnlyRead, .off 0x1C⟩] ∧
    look (·.faults) (exec (.readWord 0x28) ready) = some [⟨.writeOnlyRead, .off 0x28⟩] := by
  decide
/-- V10, with a window of 0xB4 bytes: 34 words beyond CLR0. -/
theorem test_readWord_wide_window :
    look (·.faults) (exec (.readWord 0x2C) { ready with params := ⟨0, 34, leds, .granted 0⟩ }) =
      some [⟨.undefinedRegister, .off 0x2C⟩] := by
  decide
/-- V15. -/
theorem test_readWord :
    look shown (exec (.readWord 0x0C) { ready with fsel := ⟨0, 0, 0, 0x12345678, 0, 0⟩ }) =
      some ([.rd 0x0C 0x12345678], [.word 0x12345678]) := by
  decide
/-- V16 to V19, V12. -/
theorem test_writeWord :
    look (fun s => (s.fsel.f5, s.trace)) (exec (.writeWord 0x14 0xC0000FFF) ready) =
      some (0xC0000FFF, [.wr 0x14 0xC0000FFF]) ∧
    look (·.out) (exec (.writeWord 0x1C 3) ready) = some (pins [0, 1]) ∧
    look (fun s => (s.out, s.trace)) (exec (.writeWord 0x1C 0) { ready with out := pins [0, 1] }) =
      some (pins [0, 1], [.wr 0x1C 0]) ∧
    look (·.out) (exec (.writeWord 0x28 5) { ready with out := pins [0, 1, 2] }) = some (pins [1]) ∧
    look (fun s => (s.out, s.faults)) (exec (.writeWord 0x24 1) ready) =
      some (0, [⟨.undefinedRegister, .off 0x24⟩]) := by
  decide
/-- The BUS rows are the same accesses (R51, R67, R68). -/
theorem test_bus :
    look shown (exec (.busRdFsel3 0) { ready with fsel := ⟨0, 0, 0, 0x12345678, 0, 0⟩ }) =
      some ([.rd 0x0C 0x12345678], [.word 0x12345678]) ∧
    look (·.fsel) (exec (.busWrFsel5 0xC0000FFF) ready) = some ⟨0, 0, 0, 0, 0, 0xC0000FFF⟩ ∧
    look (·.out) (exec (.busWrSet0 3) ready) = some (pins [0, 1]) ∧
    look (·.out) (exec (.busWrClr0 5) { ready with out := pins [0, 1, 2] }) = some (pins [1]) := by
  decide
/-- V24, V25, V28, V31. -/
theorem test_configureAsOutput :
    look (fun s => (s.fsel.f0, s.trace)) (exec (.configureAsOutput 9) ready) =
      some (0x08000000, [.rd 0x00 0, .wr 0x00 0x08000000]) ∧
    look (·.fsel.f0) (exec (.configureAsOutput 9) { ready with fsel := ⟨0xFFFFFFFF, 0, 0, 0, 0, 0⟩ }) =
      some 0xCFFFFFFF ∧
    look (·.fsel.f2) (exec (.configureAsOutput 21) { ready with fsel := ⟨0, 0, 0xFFFFFFFF, 0, 0, 0⟩ }) =
      some 0xFFFFFFCF ∧
    look (·.fsel.f5) (exec (.configureAsOutput 53) { ready with fsel := ⟨0, 0, 0, 0, 0, 0xFFFFFFFF⟩ }) =
      some 0xFFFFF3FF := by
  decide
/-- V32, V33, V35. -/
theorem test_configureAsOutput_faults :
    look (fun s => (s.faults, s.trace)) (exec (.configureAsOutput 54) ready) = some ([⟨.pinRange, .pin 54⟩], []) ∧
    look (·.faults) (exec (.configureAsOutput (-1)) ready) = some [⟨.pinRange, .pin (-1)⟩] ∧
    look (·.faults) (exec (.configureAsOutput 21) { ready with map := .unmapped }) =
      some [⟨.notMapped, .off 0x08⟩] := by
  decide
/-- S1, V37, V39, V41, V45. -/
theorem test_set :
    look (fun s => (s.out, s.trace)) (exec (.set 5) { ready with out := pins [4, 6] }) =
      some (pins [4, 5, 6], [.wr 0x1C 0x20]) ∧
    look (fun s => (s.out, s.trace)) (exec (.set 31) ready) = some (pins [31], [.wr 0x1C 0x80000000]) ∧
    look (·.faults) (exec (.set 32) ready) = some [⟨.pinRange, .pin 32⟩] ∧
    look (·.faults) (exec (.set 5) atLaunch) = some [⟨.notMapped, .off 0x1C⟩] := by
  decide
/-- S1, V38, V42. -/
theorem test_clear :
    look (fun s => (s.out, s.trace)) (exec (.clear 5) { ready with out := pins [4, 5, 6] }) =
      some (pins [4, 6], [.wr 0x28 0x20]) ∧
    look (fun s => (s.out, s.trace)) (exec (.clear 31) { ready with out := pins [31] }) =
      some (0, [.wr 0x28 0x80000000]) ∧
    look (·.faults) (exec (.clear (-1)) ready) = some [⟨.pinRange, .pin (-1)⟩] := by
  decide
/-- V43, V44: the level of a pin that is no output, and of one that is. -/
theorem test_level :
    { ready with out := pins [21] }.level 21 = none ∧
    { ready with out := pins [21], fsel := ⟨0, 0, 8, 0, 0, 0⟩ }.level 21 = some true := by
  decide
/-- V48, V50, S7, V53, V59. -/
theorem test_blink :
    look (fun s => (s.seq, s.trace)) (exec (.blink 21 99) ready) = some (.idle, []) ∧
    look (·.seq) (exec (.blink 21 150) ready) = some (.blinking 21 1 .setHigh) ∧
    look (·.seq) (exec (.blink 21 500) ready) = some (.blinking 21 5 .setHigh) ∧
    look (·.faults) (exec (.blink 40 0) ready) = some [⟨.pinRange, .pin 40⟩] ∧
    look (·.faults) (exec (.blink 5 100) (blinking 3 .waitHigh)) = some [⟨.busy, .seq (.blinking 7 3 .waitHigh)⟩] := by
  decide
/-- V56, V57, V58. -/
theorem test_sequencer :
    look (fun s => (s.seq, s.trace)) (step { ready with seq := .blinking 21 2 .waitLow }) =
      some (.blinking 21 1 .setHigh, [.dly 50]) ∧
    look (fun s => (s.seq, s.trace)) (step { ready with seq := .blinking 21 1 .waitLow }) =
      some (.idle, [.dly 50]) ∧
    look (fun s => (s.seq, s.trace, s.out)) (step { ready with seq := .blinking 21 1 .setLow, out := pins [21] }) =
      some (.blinking 21 1 .waitLow, [.wr 0x28 0x00200000], 0) := by
  decide
/-- A Set phase that faults is not repeated (R111). -/
theorem test_sequencer_fault :
    look (fun s => (s.seq, s.faults, s.trace)) (step { atLaunch with seq := .blinking 21 2 .setHigh }) =
      some (.idle, [⟨.notMapped, .off 0x1C⟩], []) := by
  decide
/-- V60. -/
theorem test_delay : look (·.trace) (exec (.delay 50) ready) = some [.dly 50] := by decide
/-- V61, V65, V77, V69. -/
theorem test_commands :
    look (·.trace) (exec (.cmdOn 21) ready) = some [.wr 0x1C 0x00200000] ∧
    look (·.trace) (exec (.cmdOff 21) ready) = some [.wr 0x28 0x00200000] ∧
    look (·.seq) (exec (.cmdBlink 21) ready) = some (.blinking 21 50 .setHigh) ∧
    look (·.lastErr) (exec (.cmdOn 40) ready) = some [0x70, 0x69, 0x6E, 0x20, 0x6F, 0x75, 0x74, 0x20, 0x6F, 0x66,
      0x20, 0x72, 0x61, 0x6E, 0x67, 0x65] := by
  decide
/-- S6, S5. -/
theorem test_command_errors :
    look (fun s => (s.lastErr, s.trace)) (exec (.cmdUnknown 21 [0x64, 0x61, 0x6E, 0x63, 0x65]) ready) =
      some (danceMessage, [.err danceMessage]) ∧
    look (·.lastErr) (exec .cmdMalformed { ready with lastErr := danceMessage }) = some [0x49, 0x6E, 0x76, 0x61, 0x6C,
      0x69, 0x64, 0x20, 0x69, 0x6E, 0x70, 0x75, 0x74, 0x20, 0x66, 0x6F, 0x72, 0x6D, 0x61, 0x74] := by
  decide
/-- V91, V92 (S3, R95). -/
theorem test_write :
    look (fun s => (s.out, s.lastErr, s.replies))
      (exec (.write [0x32, 0x31, 0x3A, 0x6F, 0x6E] true) { ready with lastErr := danceMessage }) =
      some (pins [21], danceMessage, [.count 5]) ∧
    look (fun s => (s.lastErr, s.replies))
      (exec (.write [0x32, 0x31, 0x3A, 0x64, 0x61, 0x6E, 0x63, 0x65] true) { ready with lastErr := formatMessage }) =
      some (danceMessage, [.count 8]) := by
  decide
/-- V100, V102, V104. -/
theorem test_write_turned_away :
    look shown (exec (.write [0x32, 0x31, 0x3A, 0x6F, 0x6E] false) ready) = some ([], [.error .eCopyIn none]) ∧
    look (fun s => (s.held, s.out)) (exec (.write [0x35] true) (blinking 40 .waitHigh)) =
      some ([.write [0x35] true], 0) ∧
    whyRefused (exec (.write [0x35] true) { ready with map := .mapFailed }) = some .channelNotOffered := by
  decide
/-- V102: the held WRITE runs once the Executor is idle; and a WRITE returns its count when its blink ends (R86). -/
theorem test_held :
    look (fun s => (s.trace, s.held, s.replies))
      (step { ready with held := [.write [0x32, 0x31, 0x3A, 0x6F, 0x66, 0x66] true] }) =
      some ([.wr 0x28 0x00200000], [], [.count 6]) ∧
    look (fun s => (s.seq, s.replies)) (step { blinking 1 .waitLow with writing := some 9 }) =
      some (.idle, [.count 9]) := by
  decide
/-- V95, V96, V97, V103. -/
theorem test_read :
    look (·.replies) (exec (.read 4 0 true) { ready with lastErr := pinMessage }) =
      some [.bytes [0x70, 0x69, 0x6E, 0x20]] ∧
    look (·.replies) (exec (.read 256 12 true) { ready with lastErr := pinMessage }) =
      some [.bytes [0x61, 0x6E, 0x67, 0x65]] ∧
    look (·.replies) (exec (.read 256 16 true) { ready with lastErr := pinMessage }) = some [.bytes []] ∧
    look (·.replies) (exec (.read 256 0 true) { blinking 40 .waitHigh with lastErr := danceMessage }) =
      some [.bytes danceMessage] := by
  decide
/-- V98, V99, and a negative offset (R100). -/
theorem test_read_corners :
    look (·.replies) (exec (.read 0 0 false) { ready with lastErr := pinMessage }) = some [.bytes []] ∧
    look (fun s => (s.lastErr, s.replies)) (exec (.read 256 0 false) { ready with lastErr := pinMessage }) =
      some (pinMessage, [.error .eCopyOut none]) ∧
    whyRefused (exec (.read 256 (-1) true) ready) = some .negativeOffset := by
  decide
/-- V101. -/
theorem test_open_close :
    look shown (exec .openChannel ready) = some ([], [.ok]) ∧ look shown (exec .closeChannel ready) = some ([], [.ok]) := by
  decide
/-- V105, V106. -/
theorem test_startup :
    look (fun s => (s.fsel, s.trace)) (exec .startup atLaunch) = some (⟨0, 0x00200000, 0x00200040, 0, 0, 0⟩,
      [.mapAnswered true, .rd 0x04 0, .wr 0x04 0x00200000, .rd 0x08 0, .wr 0x08 0x00200000, .rd 0x08 0x00200000,
       .wr 0x08 0x00200040]) ∧
    look (fun s => (s.fsel.f1, s.fsel.f2, s.level 17))
      (exec .startup { atLaunch with fsel := ⟨0, 0xFFFFFFFF, 0xFFFFFFFF, 0, 0, 0⟩, out := pins [17] }) =
      some (0xFF3FFFFF, 0xFF3FFE7F, some true) := by
  decide
/-- V107, and a second STARTUP (R123). -/
theorem test_startup_refused :
    look (fun s => (s.map, s.trace, s.replies)) (exec .startup toBeRefused) =
      some (.mapFailed, [.mapAnswered false], [.error .eMap (some .permissionDenied)]) ∧
    look (·.faults) (exec .startup ready) = some [⟨.doubleMap, .map .mapped⟩] := by
  decide
/-- V108, V109. -/
theorem test_shutdown :
    look (fun s => (s.map, s.out, s.trace)) (exec .shutdown { ready with out := pins [17, 5] }) =
      some (.unmapped, pins [5], [.wr 0x28 0x00020000, .wr 0x28 0x08000000, .wr 0x28 0x00400000, .unmapped]) ∧
    look (·.faults) (exec .shutdown { ready with map := .unmapped }) = some [⟨.doubleUnmap, .map .unmapped⟩] ∧
    whyRefused (exec .shutdown (blinking 1 .setLow)) = some .shutdownNotIdle := by
  decide
/-- Program P4 ("No WRITE, READ or SHUTDOWN has a move afterwards"), and a second STARTUP (R102). -/
theorem test_excluded_requests :
    whyRefused (step { toBeRefused with map := .mapFailed, agenda := [.request (encode .shutdown)] }) =
      some .excludedRequest ∧
    whyRefused (step { ready with agenda := [.request (encode .startup)] }) = some .excludedRequest := by
  decide
/-- A table word is the first request after reset: before MAP it faults (R35, R130). -/
theorem test_fetch_word :
    look (·.faults) (step (State.reset.withFetchWord 72 0x10000001C00200000)) = some [⟨.notMapped, .off 0x1C⟩] := by
  decide

/-! ## The hypotheses of the statements, met: one witness for each, and for each clause -/

theorem witness_InvariantAtLaunch : atLaunch.params.ledPins.Distinct := by decide
/-- A request waits and runs. -/
theorem witness_StepKeepsStateInvariant :
    { ready with agenda := [.request (encode (.set 21))] }.Inv ∧
    look (·.out) (step { ready with agenda := [.request (encode (.set 21))] }) = some (pins [21]) :=
  ⟨⟨by decide, by decide, trivial, .inl rfl, by decide⟩, by decide⟩
theorem witness_FaultSetOnlyGrows :
    look (·.faults) (step { ready with faults := [⟨.pinRange, .pin 40⟩], agenda := [.request (encode (.set 32))] }) =
      some [⟨.pinRange, .pin 40⟩, ⟨.pinRange, .pin 32⟩] := by
  decide
/-- A legal record of each code, at the limits of its cause. -/
theorem witness_FaultRecordsStayLegal :
    ∀ x ∈ ([⟨.notMapped, .off 0⟩, ⟨.misaligned, .off 1⟩, ⟨.outOfWindow, .off 0x2C⟩, ⟨.outOfWindow, .off (-4)⟩,
      ⟨.undefinedRegister, .off 0x24⟩, ⟨.writeOnlyRead, .off 0x1C⟩, ⟨.writeOnlyRead, .off 0x28⟩, ⟨.pinRange, .pin 32⟩,
      ⟨.pinRange, .pin (-1)⟩, ⟨.doubleMap, .map .mapped⟩, ⟨.doubleUnmap, .map .preMap⟩,
      ⟨.busy, .seq (.blinking 7 1 .setHigh)⟩] : List FaultRecord), x.Legal ready.params := by
  intro x hx
  fin_cases hx <;> simp [FaultRecord.Legal] <;> decide
/-- A step that adds F_NOT_MAPPED, and one that records the map it found. -/
theorem witness_FaultRecordsStayLegal_added :
    look (·.faults) (step { atLaunch with agenda := [.request (encode (.set 5))] }) = some [⟨.notMapped, .off 0x1C⟩] ∧
    look (·.faults) (step { ready with agenda := [.request (encode .map)] }) =
      some [⟨.doubleMap, .map .mapped⟩] := by
  decide
theorem witness_DeviceFollowsTrace :
    look (·.trace) (step { ready with agenda := [.request (encode (.configureAsOutput 9))] }) =
      some [.rd 0x00 0, .wr 0x00 0x08000000] := by
  decide
/-- The three moves, and a step that makes none. -/
theorem witness_MapStateMoves :
    atLaunch.map = .preMap ∧ ready.map = .mapped ∧ ready.seq = .idle ∧
    look (·.map) (step { toBeRefused with agenda := [.request (encode .startup)] }) = some .mapFailed ∧
    look (·.map) (step { ready with agenda := [.request (encode .shutdown)] }) = some .unmapped ∧
    look (·.map) (step ready) = some .mapped := by
  decide
/-- The lowest and the highest bit of the range. -/
theorem witness_HighOutputBitsNeverChange :
    look (fun s => (s.out.getLsbD 32, s.out.getLsbD 53))
      (step { ready with out := pins [31, 32], agenda := [.request (encode (.clear 31))] }) = some (true, false) := by
  decide
theorem witness_FaultEntryAddsOneRecord :
    ([⟨.pinRange, .pin 40⟩, ⟨.pinRange, .pin 41⟩] : List FaultRecord).Nodup := by decide

/-- map = Mapped: BusReadsAnswerFsel, BusWritesStoreFsel, ReadWordAnswersStoredWord, WriteWordEffect,
RepeatedWriteIsIdempotent, ConfigureIsIdempotent, SetClearNoCrosstalk, OpenCloseAnswerOk. -/
theorem witness_mapped : ready.map = .mapped := by decide
/-- map other than Mapped: BusRowsFaultUnmapped, and the clauses of ConfigureSetsOutputField, SetDrivesPinHigh,
ClearDrivesPinLow, ChannelRefusals and ShutdownOtherwise. -/
theorem witness_not_mapped :
    atLaunch.map ≠ .mapped ∧ ({ ready with map := .unmapped } : State).map ≠ .mapped := by decide
/-- A free Executor: CommandsDriveAndBlink, CommandErrorsAreRecorded, WriteRunsItsCommand, CopyFaultsAreReturned,
ShutdownClearsAndUnmaps, DriveOfNonOutputPin. -/
theorem witness_mapped_and_free : ready.map = .mapped ∧ executorFree ready = true ∧ ready.faults = [] := by decide
/-- The two sides of every bit of BusSetClrDriveLatch: the top bit of the word, the bit above it, a bit that is 0. -/
theorem witness_BusSetClrDriveLatch :
    look (fun s => (s.out.getLsbD 31, s.out.getLsbD 32, s.out.getLsbD 0)) (exec (.busWrSet0 0x80000000) ready) =
      some (true, false, false) ∧
    look (fun s => (s.out.getLsbD 31, s.out.getLsbD 32))
      (exec (.busWrClr0 0x80000000) { ready with out := pins [31, 32] }) = some (false, true) := by
  decide
/-- Each clause of WindowAccessChecks, where they meet: the last offset of the window and the first beyond it, the
named registers and the gaps between them. -/
theorem witness_WindowAccessChecks :
    ready.map = .mapped ∧ ready.params.windowLen = 0x2C ∧ (0x2B : Int) % 4 ≠ 0 ∧ (-1 : Int) % 4 ≠ 0 ∧
    (-4 : Int) % 4 = 0 ∧ (0x2C : Int) % 4 = 0 ∧
    look (·.faults) (exec (.readWord (-1)) ready) = some [⟨.misaligned, .off (-1)⟩] ∧
    look (·.faults) (exec (.writeWord 0x28 0) ready) = some [] ∧
    look (·.faults) (exec (.readWord 0x14) ready) = some [] ∧
    look (·.faults) (exec (.readWord 0x20) ready) = some [⟨.undefinedRegister, .off 0x20⟩] := by
  decide
/-- The bytes of a stored word, and the bytes beside it. -/
theorem witness_WindowBytesAfterWrite :
    look (fun s => [s.windowByte 3, s.windowByte 4, s.windowByte 7, s.windowByte 8, s.windowByte 0x1C])
      (exec (.writeWord 0x04 0x80000001) ready) = some [some 0, some 1, some 0x80, some 0, none] := by
  decide
/-- MapOutcome: a grant, a refusal, and a map that is not PreMap. -/
theorem witness_MapOutcome :
    atLaunch.map = .preMap ∧ atLaunch.params.mapGrant = .granted 0x1000 ∧ toBeRefused.map = .preMap ∧
    toBeRefused.params.mapGrant = .refused .permissionDenied ∧ ready.map ≠ .preMap := by
  decide
/-- UnmapOutcome: mapped and idle, not mapped, and mapped while a blink runs. -/
theorem witness_UnmapOutcome :
    ready.map = .mapped ∧ ready.seq = .idle ∧ atLaunch.map ≠ .mapped ∧ (blinking 1 .waitLow).map = .mapped ∧
    (blinking 1 .waitLow).seq ≠ .idle := by
  decide
/-- The pins on both sides of the range of ConfigureSetsOutputField, and the bits on both sides of pin 9's field. -/
theorem witness_ConfigureSetsOutputField :
    ¬ (0 ≤ (-1 : Int) ∧ (-1 : Int) ≤ 53) ∧ ¬ (0 ≤ (54 : Int) ∧ (54 : Int) ≤ 53) ∧
    look (·.fsel.f0) (exec (.configureAsOutput 9) { ready with fsel := ⟨0x44000000, 0, 0, 0, 0, 0⟩ }) =
      some 0x4C000000 ∧
    look (fun s => pinField s.fsel 53) (exec (.configureAsOutput 53) ready) = some 1 := by
  decide
theorem witness_ConfigureKeepsOtherFields : ready.map = .mapped ∧ (19 : Fin 54) ≠ 9 := by decide
/-- SetDrivesPinHigh and ClearDrivesPinLow: the pins just outside the range, the pin itself and its neighbour. -/
theorem witness_SetDrivesPinHigh :
    ¬ (0 ≤ (-1 : Int) ∧ (-1 : Int) ≤ 31) ∧ ¬ (0 ≤ (32 : Int) ∧ (32 : Int) ≤ 31) ∧
    look (fun s => (s.out.getLsbD 31, s.out.getLsbD 32)) (exec (.set 31) ready) = some (true, false) ∧
    look (fun s => (s.out.getLsbD 0, s.out.getLsbD 1)) (exec (.clear 0) { ready with out := pins [0, 1] }) =
      some (false, true) := by
  decide
/-- A pin whose field is not output. -/
theorem witness_DriveOfNonOutputPin :
    ((21 : Fin 54).val = (21 : Fin 32).val) ∧ ready.map = .mapped ∧ pinField ready.fsel 21 ≠ 1 ∧
    executorFree ready = true := by
  decide
/-- BlinkStartsSequence: 100 and 99 ms, pins just outside the range, and a blink that runs. -/
theorem witness_BlinkStartsSequence :
    ready.seq = .idle ∧ (100 : Int) ≤ 100 ∧ (99 : Int) < 100 ∧ ¬ (0 ≤ (32 : Int) ∧ (32 : Int) ≤ 31) ∧
    ¬ (0 ≤ (-1 : Int) ∧ (-1 : Int) ≤ 31) ∧ (blinking 1 .setHigh).seq ≠ .idle := by
  decide
/-- SequencerPhases: every phase, the last cycle and one before it, mapped and not. -/
theorem witness_SequencerPhases :
    (blinking 2 .setHigh).map = .mapped ∧ (blinking 2 .setHigh).seq = .blinking 7 2 .setHigh ∧
    (blinking 2 .waitHigh).seq = .blinking 7 2 .waitHigh ∧ (blinking 2 .setLow).seq = .blinking 7 2 .setLow ∧
    (blinking 2 .waitLow).seq = .blinking 7 2 .waitLow ∧ (2 : Nat) ≠ 1 ∧
    (blinking 1 .waitLow).seq = .blinking 7 1 .waitLow ∧ (blinking 1 .waitLow).writing = none ∧
    ({ blinking 2 .setHigh with map := .unmapped } : State).map ≠ .mapped := by
  decide
theorem witness_SequencerFaultEndsBlink :
    ({ atLaunch with seq := .blinking 7 1 .setHigh } : State).map ≠ .mapped ∧
    look (fun s => (s.seq, s.writing))
      (executorMove { blinking 1 .setLow with map := .unmapped, writing := some 9 }) = some (.idle, none) := by
  decide
/-- BlinkRunsToCompletion: no turn left, and a SHUTDOWN that waits (program P3). -/
theorem witness_BlinkRunsToCompletion :
    (1 : Nat) ≤ 1 ∧ (blinking 1 .setHigh).map = .mapped ∧ (blinking 1 .setHigh).agenda = [] ∧
    (blinking 1 .setHigh).seq = .blinking 7 1 .setHigh ∧ waitsForExecutor (encode .shutdown) = true ∧
    look (·.seq) (step { blinking 1 .setHigh with agenda := [.request (encode .shutdown)] }) =
      some (.blinking 7 1 .waitHigh) := by
  decide
/-- A blink in each phase; an operation that is turned away, and a step that advances. -/
theorem witness_BlinkIsNeverCancelled :
    (blinking 3 .waitHigh).seq = .blinking 7 3 .waitHigh ∧
    look (·.seq) (exec .unmap (blinking 3 .waitHigh)) = some (.blinking 7 3 .waitHigh) ∧
    look (·.seq) (step (blinking 1 .waitLow)) = some .idle ∧
    look (·.faults) (step { blinking 1 .setLow with map := .unmapped }) = some [⟨.notMapped, .off 0x28⟩] := by
  decide
/-- ParseMatchesGrammar: a text without 0x00 that is a command, and one that is not. -/
theorem witness_ParseMatchesGrammar :
    (0x00 : Byte) ∉ ([0x32, 0x31, 0x3A, 0x6F, 0x6E] : List Byte) ∧
    parse [0x32, 0x31, 0x3A, 0x6F, 0x6E] = .ok 21 [0x6F, 0x6E] ∧ parse [0x32, 0x31] = .malformed := by
  decide
/-- A text of 255 bytes is whole, one of 256 is cut, and one with 0x00 ends there. -/
theorem witness_EffectiveTextIsDelivered :
    (effectiveText (List.replicate 255 0x20)).length = 255 ∧ (effectiveText (List.replicate 256 0x20)).length = 255 ∧
    effectiveText [0x31, 0x00, 0x32] = [0x31] := by
  decide +kernel
/-- CommandErrorsAreRecorded: a token that is no action, and pins outside the range. -/
theorem witness_CommandErrorsAreRecorded :
    unknownToken [0x4F, 0x4E] = true ∧ ¬ (0 ≤ (32 : Int) ∧ (32 : Int) ≤ 31) ∧ ¬ (0 ≤ (-1 : Int) ∧ (-1 : Int) ≤ 31) := by
  decide
/-- WriteRunsItsCommand: a command that ends at once, and one that starts a blink. -/
theorem witness_WriteRunsItsCommand :
    look (·.seq) (exec (decodeCmd [0x37, 0x3A, 0x6F, 0x6E]) ready) = some .idle ∧
    look (·.seq) (exec (decodeCmd [0x37, 0x3A, 0x62, 0x6C, 0x69, 0x6E, 0x6B]) ready) = some (.blinking 7 50 .setHigh) := by
  decide
/-- A READ that copies a byte: the last byte of the text. -/
theorem witness_CopyFaultsAreReturned :
    (15 : Nat) < ({ ready with lastErr := pinMessage } : State).lastErr.length ∧ (1 : Nat) ≠ 0 ∧
    executorFree ready = true := by
  decide
/-- Busy with a blink, and busy with a held WRITE. -/
theorem witness_BusyExecutorHoldsWrites :
    (blinking 1 .waitLow).map = .mapped ∧ executorFree (blinking 1 .waitLow) = false ∧
    executorFree { ready with held := [.write [] true] } = false := by
  decide
/-- A held WRITE and a held command, each with a request still to come. -/
theorem witness_HeldWriteRunsOldestFirst :
    let s : State := { ready with held := [.write [0x35] true, .command .malformed],
                                  agenda := [.request (encode .shutdown)] }
    s.map = .mapped ∧ s.seq = .idle ∧ s.held = .write [0x35] true :: [.command .malformed] ∧
    look (fun t => (t.replies, t.held)) (executorMove s) = some ([.count 1], [.command .malformed]) ∧
    look (fun t => (t.out, t.replies, t.held)) (executorMove { s with held := [.command (.ok 7 [0x6F, 0x6E])] }) =
      some (pins [7], [], []) := by
  decide
/-- ReadReturnsLastErrorSlice: an offset at the end of the text and one before it, a length of 0, a negative offset. -/
theorem witness_ReadReturnsLastErrorSlice :
    ready.map = .mapped ∧ atLaunch.map ≠ .mapped ∧ (-1 : Int) < 0 ∧
    15 < ({ ready with lastErr := pinMessage } : State).lastErr.length ∧ (1 : Nat) ≠ 0 ∧ ({ ready with lastErr := pinMessage } : State).lastErr.length ≤ 16 ∧ (0 : Nat) = 0 := by
  decide
/-- ChannelRefusals: before MAP, after a refused MAP and after UNMAP. -/
theorem witness_ChannelRefusals :
    atLaunch.map ≠ .mapped ∧ ({ ready with map := .mapFailed } : State).map ≠ .mapped ∧
    ({ ready with map := .unmapped } : State).map ≠ .mapped := by
  decide
theorem witness_StartupMapsAndConfigures :
    atLaunch.map = .preMap ∧ atLaunch.params.mapGrant = .granted 0x1000 := by decide
/-- StartupRefusedOrRepeated: a refused mapping, a repeated STARTUP, and one that waits for a blink begun before MAP. -/
theorem witness_StartupRefusedOrRepeated :
    toBeRefused.map = .preMap ∧ toBeRefused.params.mapGrant = .refused .permissionDenied ∧ ready.map ≠ .preMap ∧
    executorFree ready = true ∧ executorFree { atLaunch with seq := .blinking 7 1 .setHigh } = false ∧
    look (fun s => (s.map, s.seq, s.agenda.length))
      (step { atLaunch with seq := .blinking 7 1 .setHigh, agenda := [.request (encode .startup)] }) =
      some (.preMap, .idle, 1) := by
  decide
theorem witness_ShutdownOtherwise :
    atLaunch.map ≠ .mapped ∧ executorFree atLaunch = true ∧
    (blinking 1 .setLow).map = .mapped ∧ executorFree (blinking 1 .setLow) = false ∧
    ({ blinking 1 .setLow with agenda := [.request (encode .shutdown)] } : State).agenda =
      .request (encode .shutdown) :: [] := by
  decide
/-- A well-formed operation of each level, each read back. -/
theorem witness_DecodeOfEncode :
    wellFormed (.busRdFsel5 0xFFFFFFFF) = true ∧ decode (encode (.busRdFsel5 0xFFFFFFFF)) = .ok (.busRdFsel5 0xFFFFFFFF) ∧
    wellFormed (.blink (-7) (-100)) = true ∧ decode (encode (.blink (-7) (-100))) = .ok (.blink (-7) (-100)) ∧
    wellFormed (.cmdUnknown (-40) [0x2D, 0x22]) = true ∧
    decode (encode (.cmdUnknown (-40) [0x2D, 0x22])) = .ok (.cmdUnknown (-40) [0x2D, 0x22]) ∧
    decode (encode (.write [0x00, 0x31, 0xFF, 0x22, 0x5C, 0x78] false)) =
      .ok (.write [0x00, 0x31, 0xFF, 0x22, 0x5C, 0x78] false) ∧
    decode (encode (.read 0 (-10) false)) = .ok (.read 0 (-10) false) := by
  decide
theorem witness_DecodeYieldsWellFormed :
    decode ⟨.cmd, [0x2D, 0x30, 0x30, 0x3A, 0x41]⟩ = .ok (.cmdUnknown 0 [0x41]) := by decide
/-- A read of SET0, a write of no register, and an offset beyond 16 bits. -/
theorem witness_BusValueWithoutRowFaults :
    (0x1C : Word) ∉ ([0x00, 0x04, 0x08, 0x0C, 0x10, 0x14] : List Word) ∧
    look (·.faults) (step { ready with agenda := [.request ⟨.bus, busBytes false 0x1C 0⟩] }) =
      some [⟨.writeOnlyRead, .off 0x1C⟩] ∧
    look (·.faults) (step { ready with agenda := [.request ⟨.bus, busBytes true 0x18 0⟩] }) =
      some [⟨.undefinedRegister, .off 0x18⟩] ∧
    look (·.faults) (step { ready with agenda := [.request ⟨.bus, busBytes true 0x10000 0⟩] }) =
      some [⟨.outOfWindow, .off 0x10000⟩] ∧
    look (·.faults) (step { ready with agenda := [.request ⟨.bus, busBytes true 0x2B 0⟩] }) =
      some [⟨.misaligned, .off 0x2B⟩] ∧
    look (·.faults) (step { ready with agenda := [.request ⟨.bus, busBytes true 0x2C 0⟩] }) =
      some [⟨.outOfWindow, .off 0x2C⟩] ∧
    look (·.faults) (step { atLaunch with agenda := [.request ⟨.bus, busBytes false 0x28 0⟩] }) =
      some [⟨.notMapped, .off 0x28⟩] := by
  decide
/-- Eight and ten bytes, and bit 65 set. -/
theorem witness_BusValueWithoutRowFaults_width :
    whyRefused (step { ready with agenda := [.request ⟨.bus, List.replicate 8 0⟩] }) = some .accessWidth ∧
    whyRefused (step { ready with agenda := [.request ⟨.bus, List.replicate 10 0⟩] }) = some .accessWidth ∧
    2 ^ 65 ≤ leValue [0, 0, 0, 0, 0, 0, 0, 0, 2] := by
  decide
/-- A request that need not wait, one that waits for a free Executor, and a table word. -/
theorem witness_StepRunsDecodedRequest :
    decode (encode (.read 4 0 true)) = .ok (.read 4 0 true) ∧ waitsForExecutor (encode (.read 4 0 true)) = false ∧
    waitsForExecutor (encode (.set 5)) = true ∧ executorFree ready = true ∧
    decodeTableWord 72 0x400000000 = some (.busRdFsel1 0) := by
  decide
theorem witness_ExecutorTurns :
    waitsForExecutor (encode .shutdown) = true ∧ waitsForExecutor (encode .startup) = true ∧
    waitsForExecutor (encode (.busRdFsel0 0)) = true ∧ waitsForExecutor (encode (.write [] true)) = false ∧
    executorFree (blinking 1 .setLow) = false ∧ ready.agenda = [] ∧ executorFree ready = true := by
  decide

end Sys2Proof.Tests
end

section
/-!
The step on a request that decodes (R5, R10, R25; logs 6, 9, 16), and O54.
-/
namespace Sys2Proof.Machine
open Sys2Proof

/-- The requests that R102 excludes (log 16). -/
theorem excludedByHostDuty_iff (i : Instr) (s : State) :
    excludedByHostDuty i s = true ↔ (i = .startup ∧ s.map ≠ .preMap) ∨ (i = .shutdown ∧ s.map ≠ .mapped) := by
  simp [excludedByHostDuty]

theorem excludedByHostDuty_of_level_ne_host (i : Instr) (s : State) (h : i.level ≠ .host) :
    excludedByHostDuty i s = false := by
  rw [← Bool.not_eq_true, excludedByHostDuty_iff]
  rintro (⟨rfl, _⟩ | ⟨rfl, _⟩)
  · exact h rfl
  · exact h rfl

theorem level_of_mem_busRows (row : BitVec 65 × (Word → Instr)) (h : row ∈ busRows) (data : Word) :
    (row.2 data).level = .bus := by
  simp only [busRows, List.mem_cons, List.not_mem_nil, or_false] at h
  rcases h with rfl | rfl | rfl | rfl | rfl | rfl | rfl | rfl | rfl | rfl | rfl | rfl | rfl | rfl <;> rfl

/-- A BUS word decodes to operations of the BUS level only (R51). -/
theorem level_of_decodeBusWord (w : BitVec 65) (i : Instr) (h : decodeBusWord w = .ok i) : i.level = .bus := by
  unfold decodeBusWord at h
  split at h
  · rename_i row hfind
    cases h
    exact level_of_mem_busRows row (List.mem_of_find?_eq_some hfind) _
  · cases h

theorem level_of_decodeBus (bs : List Byte) (i : Instr) (h : decodeBus bs = .ok i) : i.level = .bus := by
  unfold decodeBus at h
  split at h
  · exact level_of_decodeBusWord _ i h
  · cases h

theorem decodeTableWord_eq_some_iff (nbits w : Nat) (i : Instr) :
    decodeTableWord nbits w = some i ↔ decodeBus (tableWordBytes nbits w) = .ok i := by
  change (decodeBus (tableWordBytes nbits w)).toOption = some i ↔ _
  cases decodeBus (tableWordBytes nbits w) <;> simp [Except.toOption]

/-- The step on a request that need not wait and decodes: no move where R102 excludes it, else the operation, with the
request taken off the agenda. -/
theorem step_of_decode (s : State) (c : Code) (rest : List Turn) (i : Instr) (ha : s.agenda = .request c :: rest)
    (hd : decode c = .ok i) (hw : waitsForExecutor c = false ∨ executorFree s = true) :
    step s = if excludedByHostDuty i s then .refused .excludedRequest else exec i { s with agenda := rest } := by
  have hgo : (waitsForExecutor c && !executorFree s) = false := by simpa [imp_iff_not_or] using hw
  cases hx : excludedByHostDuty i s <;> simp [step, nextMove, ha, hd, hgo, hx]

@[simp] theorem withFetchWord_agenda (s : State) (nbits w : Nat) :
    (s.withFetchWord nbits w).agenda = .request ⟨.bus, tableWordBytes nbits w⟩ :: s.agenda := rfl

@[simp] theorem executorFree_withFetchWord (s : State) (nbits w : Nat) :
    executorFree (s.withFetchWord nbits w) = true := rfl

/-- A table word is a BUS request, so no Host request of R102: it runs in the very next step (log 6). -/
theorem step_withFetchWord (s : State) (nbits w : Nat) (i : Instr) (h : decodeTableWord nbits w = some i) :
    step (s.withFetchWord nbits w) = exec i { s with seq := .idle, held := [], writing := none } := by
  have hd : decodeBus (tableWordBytes nbits w) = .ok i := (decodeTableWord_eq_some_iff nbits w i).1 h
  have hl : i.level ≠ .host := by simp [level_of_decodeBus _ i hd]
  rw [step_of_decode _ _ s.agenda i (withFetchWord_agenda s nbits w) hd (.inr (executorFree_withFetchWord s nbits w)),
    excludedByHostDuty_of_level_ne_host i _ hl]
  rfl

/-- Settles O54: `step_of_decode` for a request of the agenda, `step_withFetchWord` for a table word. -/
theorem stepRunsDecodedRequest : Obligations.StepRunsDecodedRequest := by
  unfold Obligations.StepRunsDecodedRequest
  refine ⟨fun s c rest i ha hd hw => ?_, step_withFetchWord⟩
  simp only [step_of_decode s c rest i ha hd hw, excludedByHostDuty_iff]

end Sys2Proof.Machine
end

section
/-!
What every step keeps (10_state.md), each by one case per primitive effect: the invariant, the fault set, the high bits
of the output latch, and the device as the replay of the events; with O2, O3, O4, O6 and O8.
-/
namespace Sys2Proof.Machine
open Sys2Proof

/-- A reflexive and transitive relation that every primitive effect has is one that every step has. -/
theorem step_keeps {P : State → State → Prop} (hrefl : ∀ s, P s s) (htrans : ∀ s t u, P s t → P t u → P s u)
    (heffect : ∀ s t, Effect s t → P s t) {s t : State} (h : step s = .next t) : P s t :=
  (effects_step s t h).keeps hrefl fun s t u hst htu => htrans s t u hst (heffect t u htu)

/-! ## The invariant (R23, R24, R28, R86) -/

theorem launch_inv (p : Params) (f : FselBank) (o : BitVec 54) (h : p.ledPins.Distinct) : (State.launch p f o).Inv :=
  ⟨Nat.zero_le _, List.nodup_nil, trivial, .inl rfl, h⟩

/-- The free triple of LED pins is distinct, by its fallback (log 3). -/
theorem config_ledPins_distinct : Config.ledPins.Distinct := by
  unfold Config.ledPins
  split
  · assumption
  · decide

/-- Settles O2: `launch_inv`, at reset with the distinct pins of Config. -/
theorem invariantAtLaunch : Obligations.InvariantAtLaunch :=
  ⟨launch_inv, launch_inv _ _ _ config_ledPins_distinct⟩

theorem nodup_raiseFault (code : FaultCode) (value : FaultValue) (s : State) (h : s.faults.Nodup) :
    (raiseFault code value s).faults.Nodup := by
  rw [raiseFault_faults]
  split
  · exact h
  · rename_i hnew
    exact List.concat_eq_append ▸ h.concat hnew

/-- Only the Last-Error text, the fault set, the sequencer and the WRITE in progress bear on the invariant, so the other
effects keep it as it stands. -/
theorem effect_keeps_inv (s t : State) (he : Effect s t) (h : s.Inv) : t.Inv := by
  obtain ⟨hErr, hFaults, hSeq, hWriting, hLeds⟩ := h
  cases he with
  | fault code value _ => exact ⟨hErr, nodup_raiseFault code value s hFaults, hSeq, hWriting, hLeds⟩
  | error msg => exact ⟨List.length_take_le _ _, hFaults, hSeq, hWriting, hLeds⟩
  | sequence q w hk =>
    obtain ⟨hq, hw⟩ := hk ⟨hSeq, hWriting⟩
    exact ⟨hErr, hFaults, hq, hw, hLeds⟩
  | write r v _ => simpa [State.Inv] using And.intro hErr ⟨hFaults, hSeq, hWriting, hLeds⟩
  | turns | queue | answer | read | wait | granted | refused | unmapped =>
    exact ⟨hErr, hFaults, hSeq, hWriting, hLeds⟩

theorem effect_params (s t : State) (he : Effect s t) : t.params = s.params := by
  cases he with
  | write r v _ => exact writeReg_params r v s
  | turns | queue | fault | error | answer | read | wait | granted | refused | unmapped | sequence => rfl

theorem step_keeps_inv (s t : State) (h : step s = .next t) : s.Inv → t.Inv :=
  step_keeps (P := fun s t => s.Inv → t.Inv) (fun _ => id) (fun _ _ _ hst htu => htu ∘ hst) effect_keeps_inv h

theorem step_params (s t : State) (h : step s = .next t) : t.params = s.params :=
  step_keeps (P := fun s t => t.params = s.params) (fun _ => rfl) (fun _ _ _ hst htu => htu.trans hst) effect_params h

/-- Settles O3: no effect breaks the invariant, none writes a parameter. -/
theorem stepKeepsStateInvariant : Obligations.StepKeepsStateInvariant :=
  fun s t hs h => ⟨step_keeps_inv s t h hs, step_params s t h⟩

/-! ## The fault set (R28) -/

theorem effect_faults_subset (s t : State) (he : Effect s t) : s.faults ⊆ t.faults := by
  cases he with
  | fault code value _ =>
    rw [raiseFault_faults]
    split
    · exact List.Subset.refl _
    · exact List.subset_append_left _ _
  | write r v _ => simp
  | turns | queue | error | answer | read | wait | granted | refused | unmapped | sequence => exact List.Subset.refl _

theorem faults_of_finished (s : State) (h : s.finished) : s.faults = [] := by
  obtain ⟨_, _, hf⟩ | ⟨_, _, hf, _⟩ | ⟨_, _, hf⟩ := h <;> exact hf

/-- Settles O4: effects only add fault records, and each kind of finished state demands that none is recorded. -/
theorem faultSetOnlyGrows : Obligations.FaultSetOnlyGrows :=
  ⟨fun _ _ _ => rfl,
   fun _ _ h _ hx => step_keeps (P := fun s t => s.faults ⊆ t.faults) (fun _ => List.Subset.refl _)
     (fun _ _ _ => List.Subset.trans) effect_faults_subset h hx,
   fun s hs hfin => hs (faults_of_finished s hfin)⟩

/-! ## The bits of the output latch that no pin command reaches (R19) -/

/-- SET0 and CLR0 have 32 bits, so no register write reaches a latch bit from 32 on. -/
theorem writeReg_out_high (r : RegName) (v : Word) (s : State) (q : Nat) (hq : 32 ≤ q) :
    (writeReg r v s).out.getLsbD q = s.out.getLsbD q := by
  have hq' : ¬ q < 32 := Nat.not_lt.mpr hq
  cases r with
  | fsel n => rfl
  | set0 => simp [getLsbD_setBits, hq']
  | clr0 => simp [getLsbD_clearBits, hq']

theorem effect_out_high (q : Nat) (hq : 32 ≤ q) (s t : State) (he : Effect s t) :
    t.out.getLsbD q = s.out.getLsbD q := by
  cases he with
  | write r v _ => exact writeReg_out_high r v s q hq
  | turns | queue | fault | error | answer | read | wait | granted | refused | unmapped | sequence => rfl

/-- Settles O8: only a register write changes the latch, and only in bits 0 to 31. -/
theorem highOutputBitsNeverChange : Obligations.HighOutputBitsNeverChange :=
  fun _ _ h q hq => step_keeps (P := fun s t => t.out.getLsbD q = s.out.getLsbD q) (fun _ => rfl)
    (fun _ _ _ hst htu => htu.trans hst) (effect_out_high q hq) h

/-! ## The device as the replay of the trace (R27, R40, R42) -/

theorem replay_append (d : Device) (es es' : List Event) :
    replay d (es ++ es') = (replay d es).bind fun d' => replay d' es' := by
  induction es generalizing d with
  | nil => rfl
  | cons e es ih => simp only [List.cons_append, replay, Option.bind_assoc, ih]

/-- `t` follows `s` by events that it appends to the trace and that lead the device of `s` to that of `t`. -/
def FollowsTrace (s t : State) : Prop := ∃ es, t.trace = s.trace ++ es ∧ replay s.device es = some t.device

theorem FollowsTrace.trans (s t u : State) (hst : FollowsTrace s t) (htu : FollowsTrace t u) : FollowsTrace s u := by
  obtain ⟨es, htr, hre⟩ := hst
  obtain ⟨es', htr', hre'⟩ := htu
  exact ⟨es ++ es', by simp [htr, htr'], by simp [replay_append, hre, hre']⟩

theorem FollowsTrace.of_silent {s t : State} (htr : t.trace = s.trace) (hd : t.device = s.device) : FollowsTrace s t :=
  ⟨[], by simp [htr], by simp [replay, hd]⟩

theorem FollowsTrace.of_event {s t : State} (e : Event) (htr : t.trace = s.trace ++ [e])
    (hd : applyEvent s.device e = some t.device) : FollowsTrace s t :=
  ⟨[e], htr, by simp [replay, hd]⟩

/-- The event of a register write has the write's own device effect (R17, R18, R38). -/
theorem applyEvent_wr (r : RegName) (v : Word) (s : State) (h : s.map = .mapped) :
    applyEvent s.device (.wr (regOffset r) v) = some (writeReg r v s).device := by
  cases r <;> simp [applyEvent, regAt_regOffset, State.device, h]

/-- The event of a read of FSELn is possible: it shows the stored value. -/
theorem applyEvent_rd (n : Fin 6) (s : State) (h : s.map = .mapped) :
    applyEvent s.device (.rd (regOffset (.fsel n)) (getFsel s.fsel n)) = some s.device := by
  simp [applyEvent, regAt_regOffset, State.device, h]

/-- Each effect is silent and leaves the device, or has one event, which says what it does to the device. -/
theorem effect_followsTrace (s t : State) (he : Effect s t) : FollowsTrace s t := by
  cases he with
  | turns | queue | fault | answer | sequence => exact .of_silent rfl rfl
  | error msg => exact .of_event (.err msg) rfl rfl
  | wait ms => exact .of_event (.dly ms) rfl rfl
  | read n h => exact .of_event _ rfl (applyEvent_rd n s h)
  | write r v h => exact .of_event _ (by simp) (applyEvent_wr r v s h)
  | granted base h => exact .of_event (.mapAnswered true) rfl (by simp [applyEvent, State.device, h])
  | refused h => exact .of_event (.mapAnswered false) rfl (by simp [applyEvent, State.device, h])
  | unmapped h => exact .of_event .unmapped rfl (by simp [applyEvent, State.device, h])

/-- Settles O6: `effect_followsTrace` for each effect of the step, their events one after another. -/
theorem deviceFollowsTrace : Obligations.DeviceFollowsTrace :=
  fun _ _ h => step_keeps (P := FollowsTrace) (fun _ => .of_silent rfl rfl) FollowsTrace.trans effect_followsTrace h

end Sys2Proof.Machine
end

section
/-!
The mapping state (R21): every operation but MAP, UNMAP, STARTUP and SHUTDOWN leaves it, and these make R21's moves;
with O7.
-/
namespace Sys2Proof.Machine
open Sys2Proof

/-! ## The operations that leave map -/

@[simp] theorem readReg_map (off : Int) (s : State) : (resState (readReg off s)).map = s.map := by
  obtain ⟨n, _, _, h⟩ | ⟨code, _, h⟩ := readReg_cases off s <;> simp [h]

@[simp] theorem writeWindow_map (off : Int) (v : Word) (s : State) : (resState (writeWindow off v s)).map = s.map := by
  obtain ⟨r, _, _, h⟩ | ⟨code, _, h⟩ := writeWindow_cases off v s <;> simp [h]

theorem andThen_map {α β : Type} {m : MapState} {r : Res α} {k : α → State → Res β} (hr : (resState r).map = m)
    (hk : ∀ a t, t.map = m → (resState (k a t)).map = m) : (resState (andThen r k)).map = m := by
  cases r with
  | done a t => exact hk a t hr
  | raised t => exact hr

@[simp] theorem drivePinCheck_map (p : Int) (s : State) : (resState (drivePinCheck p s)).map = s.map := by
  unfold drivePinCheck
  split <;> rfl

@[simp] theorem setPin_map (p : Int) (s : State) : (resState (setPin p s)).map = s.map :=
  andThen_map (drivePinCheck_map p s) fun _ t ht => (writeWindow_map _ _ t).trans ht

@[simp] theorem clearPin_map (p : Int) (s : State) : (resState (clearPin p s)).map = s.map :=
  andThen_map (drivePinCheck_map p s) fun _ t ht => (writeWindow_map _ _ t).trans ht

@[simp] theorem configureAsOutput_map (p : Int) (s : State) : (resState (configureAsOutput p s)).map = s.map := by
  unfold configureAsOutput
  split
  · exact andThen_map (readReg_map _ s) fun _ t ht => (writeWindow_map _ _ t).trans ht
  · rfl

theorem forEachPin_map {op : Int → State → Res Unit} (hop : ∀ p s, (resState (op p s)).map = s.map)
    (qs : List (Fin 32)) (s : State) : (resState (forEachPin op qs s)).map = s.map := by
  induction qs generalizing s with
  | nil => rfl
  | cons q qs ih => exact andThen_map (hop _ s) fun _ t ht => (ih t).trans ht

@[simp] theorem startBlink_map (p d : Int) (s : State) : (resState (startBlink p d s)).map = s.map := by
  unfold startBlink
  split
  · rfl
  · refine andThen_map (drivePinCheck_map p s) fun _ t ht => ?_
    split <;> exact ht

@[simp] theorem endBlink_map (s : State) : (endBlink s).map = s.map := by
  unfold endBlink
  split <;> rfl

@[simp] theorem abandonOnFault_map (r : Res Unit) : (resState (abandonOnFault r)).map = (resState r).map := by
  cases r <;> rfl

@[simp] theorem sequencerStep_map (s : State) : (resState (sequencerStep s)).map = s.map := by
  unfold sequencerStep
  split
  · rfl
  · exact andThen_map (by simp) fun _ _ ht => ht
  · rfl
  · exact andThen_map (by simp) fun _ _ ht => ht
  · split <;> simp

@[simp] theorem interpret_map (r : Parsed) (s : State) : (resState (interpret r s)).map = s.map := by
  unfold interpret
  split
  · rfl
  · split
    · rfl
    · split
      · rename_i a _ _
        cases a <;> simp [dispatch]
      · rfl

@[simp] theorem runWrite_map (buf : List Byte) (ok : Bool) (s : State) : (runWrite buf ok s).map = s.map := by
  have hi := interpret_map (parse (effectiveText buf)) s
  unfold runWrite
  split
  · split <;> rename_i hr <;> rw [hr] at hi
    · exact hi
    · split <;> exact hi
  · rfl

/-! ## The requests and the Executor's moves that leave map -/

theorem finish_map {α : Type} {m : MapState} {t : State} {r : Res α} (hr : (resState r).map = m)
    (h : finish r = .next t) : t.map = m := by
  cases h
  exact hr

theorem finishRead_map {off : Int} {s t : State} (h : finishRead (readReg off s) = .next t) : t.map = s.map := by
  have hr := readReg_map off s
  cases hx : readReg off s <;> rw [hx] at h hr <;> cases h <;> exact hr

theorem commandEntry_map {r : Parsed} {s t : State} (h : commandEntry r s = .next t) : t.map = s.map := by
  unfold commandEntry at h
  split at h
  · cases h
  · split at h
    · exact finish_map (interpret_map r s) h
    · cases h; rfl

theorem execRead_map {n : Nat} {off : Int} {ok : Bool} {s t : State} (h : execRead n off ok s = .next t) :
    t.map = s.map := by
  unfold execRead at h
  repeat' split at h
  all_goals cases h
  all_goals rfl

theorem execWrite_map {buf : List Byte} {ok : Bool} {s t : State} (h : execWrite buf ok s = .next t) :
    t.map = s.map := by
  unfold execWrite at h
  split at h
  · cases h
  · split at h <;> cases h
    · exact runWrite_map buf ok s
    · rfl

/-- The four operations that can move the mapping state (R21, R123, R124). -/
def movesMap : Instr → Bool
  | .map | .unmap | .startup | .shutdown => true
  | _ => false

/-- Every operation but MAP, UNMAP, STARTUP and SHUTDOWN leaves the mapping state. -/
theorem exec_map_of_not_movesMap (i : Instr) (s t : State) (hi : movesMap i = false) (h : exec i s = .next t) :
    t.map = s.map := by
  cases i with
  | map | unmap | startup | shutdown => cases hi
  | busRdFsel0 | busRdFsel1 | busRdFsel2 | busRdFsel3 | busRdFsel4 | busRdFsel5 | readWord => exact finishRead_map h
  | busWrFsel0 | busWrFsel1 | busWrFsel2 | busWrFsel3 | busWrFsel4 | busWrFsel5 | busWrSet0 | busWrClr0 | writeWord =>
    exact finish_map (writeWindow_map _ _ s) h
  | configureAsOutput p => exact finish_map (configureAsOutput_map p s) h
  | set p => exact finish_map (setPin_map p s) h
  | clear p => exact finish_map (clearPin_map p s) h
  | blink p d => exact finish_map (startBlink_map p d s) h
  | delay ms => cases h; rfl
  | cmdOn | cmdOff | cmdBlink | cmdUnknown | cmdMalformed => exact commandEntry_map h
  | openChannel =>
    simp only [exec, execOpen] at h
    split at h <;> cases h
    rfl
  | closeChannel =>
    simp only [exec, execClose] at h
    split at h <;> cases h
    rfl
  | write buf ok => exact execWrite_map h
  | read n off ok => exact execRead_map h

theorem runHeld_map {w : Held} {s t : State} (h : runHeld w s = .next t) : t.map = s.map := by
  unfold runHeld at h
  split at h
  · cases h
  · split at h
    · cases h
      exact runWrite_map _ _ s
    · exact finish_map (interpret_map _ s) h

theorem executorMove_map (s t : State) (h : executorMove s = .next t) : t.map = s.map := by
  unfold executorMove at h
  split at h
  · exact finish_map (sequencerStep_map s) h
  · split at h
    · cases h; rfl
    · rename_i w rest _
      exact runHeld_map (s := { s with held := rest }) h

theorem rejectRequest_map (e : DecodeError) (s t : State) (h : rejectRequest e s = .next t) : t.map = s.map := by
  cases e with
  | busNoRow isWrite off data =>
    simp only [rejectRequest] at h
    split at h
    · exact finish_map (writeWindow_map _ _ s) h
    · exact finishRead_map h
  | busWidth | noSuchOperation | noSuchRequest => cases h

/-! ## The moves of R21 -/

/-- R21: the mapping state stays, or PreMap is answered, or Mapped is given up. -/
def MapMove (m m' : MapState) : Prop :=
  m' = m ∨ (m = .preMap ∧ (m' = .mapped ∨ m' = .mapFailed)) ∨ (m = .mapped ∧ m' = .unmapped)

/-- What MAP can do (R65). -/
theorem mapWindow_cases (s : State) :
    (s.map ≠ .preMap ∧ mapWindow s = .raised (raiseFault .doubleMap (.map s.map) s)) ∨
    (∃ base, s.map = .preMap ∧
      mapWindow s = .done none (emit (.mapAnswered true) { s with map := .mapped, vbase := base })) ∨
    ∃ reason, s.map = .preMap ∧
      mapWindow s = .done (some reason) (emit (.mapAnswered false) { s with map := .mapFailed }) := by
  by_cases hm : s.map = .preMap
  · cases hg : s.params.mapGrant with
    | granted base => exact .inr (.inl ⟨base, hm, by simp [mapWindow, hm, hg]⟩)
    | refused reason => exact .inr (.inr ⟨reason, hm, by simp [mapWindow, hm, hg]⟩)
  · exact .inl ⟨hm, by simp [mapWindow, hm]⟩

/-- What UNMAP does to the mapping state (R66). -/
theorem unmapWindow_map (s : State) : MapMove s.map (resState (unmapWindow s)).map := by
  unfold unmapWindow
  split
  · exact .inl rfl
  · rename_i hm
    split
    · exact .inl rfl
    · exact .inr (.inr ⟨not_not.mp hm, rfl⟩)

theorem execMap_map (s t : State) (h : execMap s = .next t) : MapMove s.map t.map := by
  unfold execMap at h
  obtain ⟨_, hr⟩ | ⟨base, hm, hr⟩ | ⟨reason, hm, hr⟩ := mapWindow_cases s <;> rw [hr] at h <;> cases h
  · exact .inl rfl
  · exact .inr (.inl ⟨hm, .inl rfl⟩)
  · exact .inr (.inl ⟨hm, .inr rfl⟩)

/-- STARTUP moves map as its MAP does: configuring the LED pins leaves it (R123). -/
theorem execStartup_map (s t : State) (h : execStartup s = .next t) : MapMove s.map t.map := by
  unfold execStartup at h
  obtain ⟨_, hr⟩ | ⟨base, hm, hr⟩ | ⟨reason, hm, hr⟩ := mapWindow_cases s <;> simp only [hr] at h
  · cases h
    exact .inl rfl
  · have hf := forEachPin_map configureAsOutput_map s.params.ledPins.list
      (emit (.mapAnswered true) { s with map := .mapped, vbase := base })
    simp only [emit_params] at h
    split at h <;> rename_i hr' <;> rw [hr'] at hf <;> cases h
    · exact .inr (.inl ⟨hm, .inl hf⟩)
    · exact .inr (.inl ⟨hm, .inl hf⟩)
  · cases h
    exact .inr (.inl ⟨hm, .inr rfl⟩)

theorem andThen_unmapWindow_map {m : MapState} {r : Res Unit} (hr : (resState r).map = m) :
    MapMove m (resState (andThen r fun _ t => unmapWindow t)).map := by
  subst hr
  cases r with
  | done a t => exact unmapWindow_map t
  | raised t => exact .inl rfl

/-- SHUTDOWN moves map as its UNMAP does: clearing the LED pins leaves it (R124). -/
theorem execShutdown_map (s t : State) (h : execShutdown s = .next t) : MapMove s.map t.map := by
  have hmove := andThen_unmapWindow_map (forEachPin_map clearPin_map s.params.ledPins.list s)
  unfold execShutdown at h
  split at h
  · cases h
    exact .inl rfl
  · split at h
    · split at h <;> rename_i hr <;> rw [hr] at hmove <;> cases h <;> exact hmove
    · cases h

/-- Every operation makes a move of R21 or none. -/
theorem exec_mapMove (i : Instr) (s t : State) (h : exec i s = .next t) : MapMove s.map t.map := by
  cases hi : movesMap i with
  | false => exact .inl (exec_map_of_not_movesMap i s t hi h)
  | true =>
    cases i with
    | map => exact execMap_map s t h
    | unmap => cases h; exact unmapWindow_map s
    | startup => exact execStartup_map s t h
    | shutdown => exact execShutdown_map s t h
    | _ => cases hi

theorem step_mapMove (s t : State) (h : step s = .next t) : MapMove s.map t.map := by
  obtain h | ⟨rest, _, h⟩ | ⟨_, rest, i, _, _, _, _, h⟩ | ⟨_, rest, e, _, _, h⟩ := step_cases s t h
  · exact .inl (executorMove_map s t h)
  · exact .inl (executorMove_map { s with agenda := rest } t h)
  · exact exec_mapMove i { s with agenda := rest } t h
  · exact .inl (rejectRequest_map e { s with agenda := rest } t h)

/-- MAP from PreMap has an answer, granted or refused (R65). -/
theorem execMap_of_preMap (s : State) (hm : s.map = .preMap) :
    ∃ t, exec .map s = .next t ∧ (t.map = .mapped ∨ t.map = .mapFailed) := by
  obtain ⟨hne, _⟩ | ⟨base, _, hr⟩ | ⟨reason, _, hr⟩ := mapWindow_cases s
  · exact absurd hm hne
  · rw [exec, execMap, hr]
    exact ⟨_, rfl, .inl rfl⟩
  · rw [exec, execMap, hr]
    exact ⟨_, rfl, .inr rfl⟩

/-- UNMAP of a mapped, idle state (R66). -/
theorem execUnmap_of_mapped (s : State) (hm : s.map = .mapped) (hq : s.seq = .idle) :
    exec .unmap s = .next (emit .unmapped { s with map := .unmapped }) := by
  simp [exec, execUnmap, unmapWindow, hm, hq, finish]

/-- Settles O7: `step_mapMove`, and the moves that MAP and UNMAP make. -/
theorem mapStateMoves : Obligations.MapStateMoves :=
  ⟨fun _ _ _ => rfl, step_mapMove, execMap_of_preMap,
   fun s hm hq => ⟨_, execUnmap_of_mapped s hm hq, rfl⟩⟩

end Sys2Proof.Machine
end

section
/-!
The registers and the pins' function fields (R14, R17, R18, R70), with O13 and O22.
-/
namespace Sys2Proof.Machine
open Sys2Proof

/-! ## SET0 and CLR0 -/

/-- A read of a register that stores nothing faults, though its offset passes every other check (item 5 of R35). -/
theorem readReg_of_regValue_none (r : RegName) (s : State) (hm : s.map = .mapped) (hr : regValue r s = none) :
    readReg (regOffset r) s = .raised (raiseFault .writeOnlyRead (.off (regOffset r)) s) := by
  have hsel := (selectRegister_eq_ok_iff (regOffset r) s r).mpr ⟨hm, rfl⟩
  simp only [readReg, hsel, hr]

theorem execReadWord_of_regValue_none (r : RegName) (s : State) (hm : s.map = .mapped) (hr : regValue r s = none) :
    exec (.readWord (regOffset r)) s = .next (raiseFault .writeOnlyRead (.off (regOffset r)) s) := by
  simp only [exec, execReadWord, readReg_of_regValue_none r s hm hr, finishRead]

theorem execBusWrSet0_mapped (v : Word) (s : State) (hm : s.map = .mapped) :
    exec (.busWrSet0 v) s = .next (emit (.wr offSet0 v) { s with out := setBits s.out v }) := by
  simp only [exec, execBusWrSet0, writeWindow_set0 v s hm, finish, resState_done]

theorem execBusWrClr0_mapped (v : Word) (s : State) (hm : s.map = .mapped) :
    exec (.busWrClr0 v) s = .next (emit (.wr offClr0 v) { s with out := clearBits s.out v }) := by
  simp only [exec, execBusWrClr0, writeWindow_clr0 v s hm, finish, resState_done]

/-- Settles O13: the two writes and the two reads, bit by bit from `getLsbD_setBits` and `getLsbD_clearBits`. -/
theorem busSetClrDriveLatch : Obligations.BusSetClrDriveLatch := by
  intro v s hm
  refine ⟨⟨_, execBusWrSet0_mapped v s hm, fun i => ?_, rfl⟩, ⟨_, execBusWrClr0_mapped v s hm, fun i => ?_, rfl⟩,
    ⟨_, _, execReadWord_of_regValue_none .set0 s hm rfl, rfl, execReadWord_of_regValue_none .clr0 s hm rfl, rfl⟩⟩
  · rw [emit_out, getLsbD_setBits]
    by_cases hi : i < 32 <;> cases v.getLsbD i <;> simp [hi]
  · rw [emit_out, getLsbD_clearBits]
    by_cases hi : i < 32 <;> cases v.getLsbD i <;> simp [hi]

/-! ## Function fields -/

/-- The field mask has exactly the field's three bits (R54). -/
theorem getLsbD_fieldMask (p i : Nat) :
    (fieldMask p).getLsbD i = decide (i < 32 ∧ fieldShift p ≤ i ∧ i < fieldShift p + 3) := by
  have h7 : ∀ k, (7 : Word).getLsbD k = decide (k < 3) := Nat.testBit_two_pow_sub_one 3
  simp only [fieldMask, BitVec.getLsbD_shiftLeft, h7, ← decide_not, ← Bool.decide_and]
  exact decide_eq_decide.mpr (by omega)

/-- A function field lies within its register. -/
theorem fieldShift_le (p : Nat) : fieldShift p ≤ 27 := by
  simp only [fieldShift, pinsPerFsel, fselWidth]
  omega

/-- FSEL_OUTPUT in pin p's place is the field's lowest bit. -/
theorem getLsbD_output_shift (p i : Nat) : (fselOutput <<< fieldShift p).getLsbD i = decide (i = fieldShift p) :=
  getLsbD_driveMask (fieldShift p) i (by have := fieldShift_le p; omega)

/-- Setting pin p's field keeps every other bit of its register (R70). -/
theorem getLsbD_withOutputField (old : Word) (p i : Nat) (hi : i < fieldShift p ∨ fieldShift p + 3 ≤ i) :
    (withOutputField old p).getLsbD i = old.getLsbD i := by
  have hmask : ¬ (i < 32 ∧ fieldShift p ≤ i ∧ i < fieldShift p + 3) := by omega
  have hout : i ≠ fieldShift p := by omega
  simp only [withOutputField, BitVec.getLsbD_or, BitVec.getLsbD_and, BitVec.getLsbD_not, getLsbD_fieldMask,
    getLsbD_output_shift, hmask, hout]
  by_cases h32 : i < 32
  · simp [h32]
  · simp [h32, BitVec.getLsbD_of_ge old i (by omega)]

/-- Distinct pins of one register have disjoint fields (R14, R52). -/
theorem fieldShift_disjoint {p q : Nat} (hn : fselIndex q = fselIndex p) (hne : q ≠ p) :
    fieldShift q + 3 ≤ fieldShift p ∨ fieldShift p + 3 ≤ fieldShift q := by
  simp only [fselIndex, fieldShift, pinsPerFsel, fselWidth] at *
  omega

theorem extractLsb'_withOutputField (old : Word) {p q : Nat}
    (h : fieldShift q + 3 ≤ fieldShift p ∨ fieldShift p + 3 ≤ fieldShift q) :
    (withOutputField old p).extractLsb' (fieldShift q) 3 = old.extractLsb' (fieldShift q) 3 := by
  refine BitVec.eq_of_getLsbD_eq fun i hi => ?_
  simp only [BitVec.getLsbD_extractLsb', hi, decide_true, Bool.true_and]
  exact getLsbD_withOutputField old p _ (by omega)

/-- The register of a pin's function field (R52). -/
def pinReg (p : Fin 54) : Fin 6 := ⟨fselIndex p.val, by have := p.isLt; simp only [fselIndex, pinsPerFsel]; omega⟩

theorem pinField_eq (b : FselBank) (p : Fin 54) :
    pinField b p = (getFsel b (pinReg p)).extractLsb' (fieldShift p.val) 3 := rfl

/-- Another pin's field is in another register, or disjoint in the same one. -/
theorem pinField_setFsel_withOutputField (b : FselBank) (p q : Fin 54) (hne : q ≠ p) :
    pinField (setFsel b (pinReg p) (withOutputField (getFsel b (pinReg p)) p.val)) q = pinField b q := by
  rw [pinField_eq, pinField_eq]
  by_cases hn : pinReg q = pinReg p
  · rw [hn, getFsel_setFsel_same]
    exact extractLsb'_withOutputField _ (fieldShift_disjoint (congrArg Fin.val hn) (Fin.val_ne_of_ne hne))
  · rw [getFsel_setFsel_ne _ _ _ _ hn]

theorem execConfigureAsOutput_fsel (p : Fin 54) (s : State) (hm : s.map = .mapped) :
    ∃ t, exec (.configureAsOutput p.val) s = .next t ∧
      t.fsel = setFsel s.fsel (pinReg p) (withOutputField (getFsel s.fsel (pinReg p)) p.val) := by
  have hp : configurablePin p.val = true := (configurablePin_iff p.val).mpr (by omega)
  exact ⟨_, congrArg finish (configureAsOutput_mapped p.val s hp hm), rfl⟩

/-- Settles O22: the one register written keeps every field but pin p's. -/
theorem configureKeepsOtherFields : Obligations.ConfigureKeepsOtherFields := by
  intro p q s hm hne
  obtain ⟨t, ht, hfsel⟩ := execConfigureAsOutput_fsel p s hm
  exact ⟨t, ht, by rw [hfsel, pinField_setFsel_withOutputField s.fsel p q hne]⟩

end Sys2Proof.Machine
end

section
/-!
The window accesses (R35, R36, R39): every check and every register of READ_WORD, WRITE_WORD and the BUS rows, and the
bytes a write leaves (R31, R41), with O12, O14, O17 and O18.
-/
namespace Sys2Proof.Machine
open Sys2Proof

/-! ## The checks of R35, one lemma per item -/

theorem selectRegister_of_misaligned {off : Int} {s : State} (hm : s.map = .mapped) (ha : off % 4 ≠ 0) :
    selectRegister off s = .error .misaligned := by
  simp [selectRegister, hm, ha]

theorem selectRegister_of_outOfWindow {off : Int} {s : State} (hm : s.map = .mapped) (ha : off % 4 = 0)
    (hw : ¬ InWindow s.params off) : selectRegister off s = .error .outOfWindow := by
  rw [selectRegister, if_neg (not_not.mpr hm), if_neg (not_not.mpr ha), if_pos hw]

theorem selectRegister_of_undefined {off : Int} {s : State} (hm : s.map = .mapped) (ha : off % 4 = 0)
    (hw : InWindow s.params off) (hr : regAt off = none) : selectRegister off s = .error .undefinedRegister := by
  rw [selectRegister, if_neg (not_not.mpr hm), if_neg (not_not.mpr ha), if_neg (not_not.mpr hw), hr]

/-- The eight defined offsets (R36). -/
theorem mem_offsets_iff (off : Int) :
    off ∈ ([0x00, 0x04, 0x08, 0x0C, 0x10, 0x14, 0x1C, 0x28] : List Int) ↔ ∃ r, off = regOffset r := by
  have hall : ([0x00, 0x04, 0x08, 0x0C, 0x10, 0x14, 0x1C, 0x28] : List Int) =
      allRegs.map fun r => (regOffset r : Int) := by decide
  have hmem : ∀ r, r ∈ allRegs := by
    rintro (n | _ | _)
    · fin_cases n <;> decide
    all_goals decide
  simp [hall, hmem, eq_comm]

theorem regAt_eq_none {off : Int} (h : ¬ ∃ r, off = regOffset r) : regAt off = none :=
  Option.eq_none_iff_forall_ne_some.mpr fun r hr => h ⟨r, regAt_eq_some off r hr⟩

/-- The registers that store nothing are the two of item 5 of R35. -/
theorem regValue_eq_none_iff (r : RegName) (s : State) :
    regValue r s = none ↔ (regOffset r : Int) = 0x1C ∨ (regOffset r : Int) = 0x28 := by
  cases r with
  | fsel n => simp only [regValue, regOffset, reduceCtorEq, false_iff]; omega
  | set0 => simp [regValue, regOffset, offSet0]
  | clr0 => simp [regValue, regOffset, offClr0]

/-! ## The two accesses as operations -/

theorem finishRead_of_select_error {off : Int} {s : State} {code : FaultCode} (h : selectRegister off s = .error code) :
    finishRead (readReg off s) = .next (raiseFault code (.off off) s) := by
  simp only [readReg, h, finishRead]

theorem finish_write_of_select_error {off : Int} {s : State} {code : FaultCode} (v : Word)
    (h : selectRegister off s = .error code) : finish (writeWindow off v s) = .next (raiseFault code (.off off) s) := by
  simp only [writeWindow, h, finish, resState_raised]

/-- A failed check of R35 is the whole effect of either access. -/
theorem access_faults {off : Int} {s : State} {code : FaultCode} (v : Word) (h : selectRegister off s = .error code) :
    exec (.readWord off) s = .next (raiseFault code (.off off) s) ∧
      exec (.writeWord off v) s = .next (raiseFault code (.off off) s) :=
  ⟨finishRead_of_select_error h, finish_write_of_select_error v h⟩

theorem execReadWord_of_regValue_some {r : RegName} {w : Word} {s : State} (hm : s.map = .mapped)
    (hr : regValue r s = some w) :
    exec (.readWord (regOffset r)) s = .next (reply (.word w) (emit (.rd (regOffset r) w) s)) := by
  have hsel := (selectRegister_eq_ok_iff (regOffset r) s r).mpr ⟨hm, rfl⟩
  simp only [exec, execReadWord, readReg, hsel, hr, finishRead]

theorem execWriteWord_reg (r : RegName) (v : Word) {s : State} (hm : s.map = .mapped) :
    exec (.writeWord (regOffset r) v) s = .next (emit (.wr (regOffset r) v) (writeReg r v s)) := by
  simp only [exec, execWriteWord, writeWindow_reg r v s hm, finish, resState_done]

/-- Settles O14: each branch is the first check of R35 that fails; where the offset is a register's, whether it stores
a value decides between the read and its fault. -/
theorem windowAccessChecks : Obligations.WindowAccessChecks := by
  intro off v s faults performs
  split
  case isTrue hmap => exact access_faults v (selectRegister_of_not_mapped off s hmap)
  case isFalse hmap =>
  have hm := not_not.mp hmap
  split
  case isTrue ha => exact access_faults v (selectRegister_of_misaligned hm ha)
  case isFalse ha =>
  split
  case isTrue hw => exact access_faults v (selectRegister_of_outOfWindow hm (not_not.mp ha) hw)
  case isFalse hw =>
  split
  case isTrue hreg =>
    have hnone : regAt off = none := regAt_eq_none (mt (mem_offsets_iff off).mpr hreg)
    exact access_faults v (selectRegister_of_undefined hm (not_not.mp ha) (not_not.mp hw) hnone)
  case isFalse hreg =>
  obtain ⟨r, rfl⟩ := (mem_offsets_iff off).mp (not_not.mp hreg)
  have hwrite : performs (.writeWord (regOffset r) v) :=
    ⟨_, .wr (regOffset r) v, execWriteWord_reg r v hm, by simp, by simp⟩
  split
  case isTrue hwo => exact ⟨execReadWord_of_regValue_none r s hm ((regValue_eq_none_iff r s).mpr hwo), hwrite⟩
  case isFalse hwo =>
  obtain ⟨w, hval⟩ := Option.ne_none_iff_exists'.mp (mt (regValue_eq_none_iff r s).mp hwo)
  exact ⟨⟨_, _, execReadWord_of_regValue_some hm hval, rfl, rfl⟩, hwrite⟩

/-- Settles O12: every BUS row is one of the two accesses, and the first check of R35 fails. -/
theorem busRowsFaultUnmapped : Obligations.BusRowsFaultUnmapped := by
  intro d s hm
  have rd (off : Int) : finishRead (readReg off s) = .next (raiseFault .notMapped (.off off) s) :=
    finishRead_of_select_error (selectRegister_of_not_mapped off s hm)
  have wr (off : Int) : finish (writeWindow off d s) = .next (raiseFault .notMapped (.off off) s) :=
    finish_write_of_select_error d (selectRegister_of_not_mapped off s hm)
  exact ⟨rd 0x00, rd 0x04, rd 0x08, rd 0x0C, rd 0x10, rd 0x14,
    wr 0x00, wr 0x04, wr 0x08, wr 0x0C, wr 0x10, wr 0x14, wr 0x1C, wr 0x28⟩

/-! ## The same write twice (R39) -/

theorem setFsel_setFsel (b : FselBank) (n : Fin 6) (v w : Word) : setFsel (setFsel b n v) n w = setFsel b n w := by
  fin_cases n <;> rfl

theorem setBits_setBits (out : BitVec 54) (v : Word) : setBits (setBits out v) v = setBits out v := by
  simp only [setBits, BitVec.or_assoc, BitVec.or_self]

theorem clearBits_clearBits (out : BitVec 54) (v : Word) : clearBits (clearBits out v) v = clearBits out v := by
  simp only [clearBits, BitVec.and_assoc, BitVec.and_self]

theorem writeReg_writeReg (r : RegName) (v : Word) (s : State) : writeReg r v (writeReg r v s) = writeReg r v s := by
  cases r with
  | fsel n => simp only [writeReg, setFsel_setFsel]
  | set0 => simp only [writeReg, setBits_setBits]
  | clr0 => simp only [writeReg, clearBits_clearBits]

theorem writeReg_emit (r : RegName) (v : Word) (e : Event) (s : State) :
    writeReg r v (emit e s) = emit e (writeReg r v s) := by
  cases r <;> rfl

/-- A write after the same write adds its event and nothing else. -/
theorem execWriteWord_again (r : RegName) (v : Word) {s : State} (hm : s.map = .mapped) :
    exec (.writeWord (regOffset r) v) (emit (.wr (regOffset r) v) (writeReg r v s)) =
      .next (emit (.wr (regOffset r) v) (emit (.wr (regOffset r) v) (writeReg r v s))) := by
  rw [execWriteWord_reg r v (by simpa using hm), writeReg_emit, writeReg_writeReg]

/-- Settles O17: from `execWriteWord_again`. -/
theorem repeatedWriteIsIdempotent : Obligations.RepeatedWriteIsIdempotent := by
  intro r v s hm
  exact ⟨_, _, execWriteWord_reg r v hm, execWriteWord_again r v hm, rfl, rfl, by simp, rfl⟩

/-! ## The bytes of the window (R31, R41) -/

/-- A byte of the window is a byte of the register its offset lies in. -/
theorem windowByte_of_div {s : State} {a : Nat} {n : Fin 6} (h : a / 4 = n.val) :
    s.windowByte a = some ((getFsel s.fsel n).extractLsb' (8 * (a % 4)) 8) := by
  have hlt : a / 4 < 6 := h ▸ n.isLt
  obtain rfl : n = ⟨a / 4, hlt⟩ := Fin.ext h.symm
  rw [State.windowByte, dif_pos hlt]

/-- A byte depends on no register but the one it lies in. -/
theorem windowByte_congr {s t : State} {a : Nat}
    (h : ∀ m : Fin 6, m.val = a / 4 → getFsel t.fsel m = getFsel s.fsel m) : t.windowByte a = s.windowByte a := by
  unfold State.windowByte
  split
  · rw [h _ rfl]
  · rfl

/-- Settles O18: the written register gives the four bytes at its offset, and every other byte lies in a register that
kept its value. -/
theorem windowBytesAfterWrite : Obligations.WindowBytesAfterWrite := by
  intro v s hm
  refine ⟨fun n => ⟨_, execWriteWord_reg (.fsel n) v hm, fun k hk => ?_, fun a ha => ?_⟩,
    ⟨_, execWriteWord_reg .set0 v hm, fun a => windowByte_congr fun _ _ => rfl⟩,
    ⟨_, execWriteWord_reg .clr0 v hm, fun a => windowByte_congr fun _ _ => rfl⟩⟩
  · have hdiv : (4 * n.val + k) / 4 = n.val := by omega
    have hmod : (4 * n.val + k) % 4 = k := by omega
    rw [windowByte_of_div hdiv, hmod, emit_fsel, writeReg_fsel_fsel, getFsel_setFsel_same]
  · refine windowByte_congr fun m hma => getFsel_setFsel_ne s.fsel n m v ?_
    rintro rfl
    omega

end Sys2Proof.Machine
end

section
/-!
The text of a command (R56 to R60): the grammar that `parse` reads, the effective text and the action tokens, with O34,
O35 and O36.
-/
namespace Sys2Proof.Machine
open Sys2Proof

/-! ## Runs in front of a text -/

/-- Why a run of bytes that meet `p`, cut at `n` bytes, ends where `rest` begins: the cut, the end of the text, or a byte
that does not meet `p`. -/
def RunStops (p : Byte → Bool) (n : Nat) (run rest : List Byte) : Prop :=
  run.length = n ∨ rest = [] ∨ ∃ b tail, rest = b :: tail ∧ p b = false

theorem takeWhile_append_cons {p : Byte → Bool} {run : List Byte} {b : Byte} (rest : List Byte) (hrun : run.all p)
    (hb : p b = false) : (run ++ b :: rest).takeWhile p = run := by
  rw [List.takeWhile_append_of_pos (List.all_eq_true.mp hrun), List.takeWhile_cons_of_neg (by simp [hb]), List.append_nil]

theorem dropWhile_append_cons {p : Byte → Bool} {run : List Byte} {b : Byte} (rest : List Byte) (hrun : run.all p)
    (hb : p b = false) : (run ++ b :: rest).dropWhile p = b :: rest := by
  rw [List.dropWhile_append_of_pos (List.all_eq_true.mp hrun), List.dropWhile_cons_of_neg (by simp [hb])]

/-- A cut run begins the text, and stops for one of the three reasons. -/
theorem takeWhile_take_stops (p : Byte → Bool) (n : Nat) (l : List Byte) :
    ∃ rest, l = (l.take n).takeWhile p ++ rest ∧ RunStops p n ((l.take n).takeWhile p) rest := by
  induction l generalizing n with
  | nil => exact ⟨[], by simp, .inr (.inl rfl)⟩
  | cons b l ih =>
    cases n with
    | zero => exact ⟨b :: l, by simp, .inl (by simp)⟩
    | succ n =>
      cases hb : p b with
      | false => exact ⟨b :: l, by simp [hb], .inr (.inr ⟨b, l, rfl, hb⟩)⟩
      | true =>
        obtain ⟨rest, heq, hstop⟩ := ih n
        rw [List.take_succ_cons, List.takeWhile_cons_of_pos hb]
        exact ⟨rest, congrArg (b :: ·) heq, hstop.imp_left (congrArg (· + 1))⟩

/-- A run that stops is the cut run of the whole text. -/
theorem takeWhile_take_append {p : Byte → Bool} {n : Nat} {run rest : List Byte} (hrun : run.all p)
    (hlen : run.length ≤ n) (hstop : RunStops p n run rest) : ((run ++ rest).take n).takeWhile p = run := by
  have hself : run.takeWhile p = run := List.takeWhile_eq_self_iff.mpr (List.all_eq_true.mp hrun)
  rcases hstop with hn | rfl | ⟨b, tail, rfl, hb⟩
  · rw [List.take_left' hn, hself]
  · rw [List.append_nil, List.take_of_length_le hlen, hself]
  · rw [List.take_append, List.take_of_length_le hlen]
    cases n - run.length with
    | zero => rw [List.take_zero, List.append_nil, hself]
    | succ k => rw [List.take_succ_cons, takeWhile_append_cons _ hrun hb]

theorem length_takeWhile_take_le (p : Byte → Bool) (n : Nat) (l : List Byte) :
    ((l.take n).takeWhile p).length ≤ n :=
  (List.takeWhile_prefix p).length_le.trans (List.length_take_le n l)

/-! ## The effective text (R59) -/

theorem length_effectiveText_le (buf : List Byte) : (effectiveText buf).length ≤ 255 :=
  length_takeWhile_take_le _ _ _

theorem zero_not_mem_effectiveText (buf : List Byte) : 0x00 ∉ effectiveText buf := fun h => by
  simpa using List.mem_takeWhile_imp h

theorem effectiveText_stops (buf : List Byte) :
    ∃ rest, buf = effectiveText buf ++ rest ∧ RunStops (· ≠ 0x00) 255 (effectiveText buf) rest :=
  takeWhile_take_stops (· ≠ 0x00) cmdMax buf

/-- A text without 0x00 that fits in one WRITE is delivered whole (R59, R62). -/
theorem effectiveText_of_fits {t : List Byte} (hlen : t.length ≤ cmdMax) (hzero : 0x00 ∉ t) : effectiveText t = t := by
  rw [effectiveText, List.take_of_length_le hlen, List.takeWhile_eq_self_iff]
  intro b hb
  simpa using ne_of_mem_of_not_mem hb hzero

/-- Settles O35: the effective text is a cut run of bytes other than 0x00. -/
theorem effectiveTextIsDelivered : Obligations.EffectiveTextIsDelivered := by
  intro buf
  obtain ⟨rest, heq, hstop⟩ := effectiveText_stops buf
  have hle := length_effectiveText_le buf
  have hbuf : buf.length = (effectiveText buf).length + rest.length := by
    rw [← List.length_append, ← heq]
  refine ⟨⟨rest, heq.symm⟩, zero_not_mem_effectiveText buf, hle, ?_⟩
  rcases hstop with hn | rfl | ⟨b, tail, rfl, hb⟩
  · left
    omega
  · left
    simp only [List.length_nil] at hbuf
    omega
  · right
    obtain rfl : b = 0x00 := by simpa using hb
    have hat : (effectiveText buf ++ 0x00 :: tail)[(effectiveText buf).length]? = some 0x00 := by simp
    rwa [← heq] at hat

/-! ## The action tokens (R60) -/

theorem actionOf_eq_some_iff (T : List Byte) (a : Action) : actionOf T = some a ↔ T = tokenOf a := by
  constructor
  · intro h
    unfold actionOf at h
    split_ifs at h with hon hoff hblink <;> cases h <;> assumption
  · rintro rfl
    cases a <;> rfl

/-- Settles O36: the three tokens, byte by byte. -/
theorem actionTokensAreExact : Obligations.ActionTokensAreExact := by
  intro T a
  rw [actionOf_eq_some_iff]
  cases a <;> simp [tokenOf, ascii]

/-! ## The pin field and the token (R56 to R58) -/

theorem isWs_eq_false_of_isDigit {b : Byte} (h : isDigit b = true) : isWs b = false := by
  revert b; decide

theorem ne_of_isDigit {b c : Byte} (h : isDigit b = true) (hc : isDigit c = false) : b ≠ c := by
  rintro rfl
  simp [h] at hc

theorem takeToken_stops (u : List Byte) :
    ∃ ws rest, u = ws ++ takeToken u ++ rest ∧ ws.all isWs ∧ RunStops (!isWs ·) 9 (takeToken u) rest := by
  obtain ⟨rest, heq, hstop⟩ := takeWhile_take_stops (!isWs ·) tokenMax (u.dropWhile isWs)
  refine ⟨u.takeWhile isWs, rest, ?_, List.all_takeWhile, hstop⟩
  rw [List.append_assoc]
  exact List.takeWhile_append_dropWhile.symm.trans (congrArg _ heq)

theorem takeToken_all (u : List Byte) : (takeToken u).all (!isWs ·) := List.all_takeWhile

theorem length_takeToken_le (u : List Byte) : (takeToken u).length ≤ 9 := length_takeWhile_take_le _ _ _

theorem takeToken_append {ws T rest : List Byte} (hws : ws.all isWs) (hne : T ≠ []) (hT : T.all (!isWs ·))
    (hlen : T.length ≤ 9) (hstop : RunStops (!isWs ·) 9 T rest) : takeToken (ws ++ T ++ rest) = T := by
  obtain ⟨b, tail, rfl⟩ := List.exists_cons_of_ne_nil hne
  have hb : isWs b = false := by simpa using List.all_eq_true.mp hT b List.mem_cons_self
  rw [takeToken, List.append_assoc, List.cons_append, dropWhile_append_cons _ hws hb]
  exact takeWhile_take_append hT hlen hstop

theorem takeSign_of_no_sign {c : Byte} (rest : List Byte) (hm : c ≠ 0x2D) (hp : c ≠ 0x2B) :
    takeSign (c :: rest) = (false, c :: rest) := by
  rw [takeSign, if_neg hm, if_neg hp]

theorem takeSign_text (sign : PinSign) {d : Byte} (hd : isDigit d = true) (rest : List Byte) :
    takeSign (sign.text ++ d :: rest) = (decide (sign = .minus), d :: rest) := by
  cases sign with
  | none => exact takeSign_of_no_sign rest (ne_of_isDigit hd rfl) (ne_of_isDigit hd rfl)
  | plus => rfl
  | minus => rfl

theorem takeSign_cases (u : List Byte) :
    ∃ sign : PinSign, u = sign.text ++ (takeSign u).2 ∧ (takeSign u).1 = decide (sign = .minus) := by
  cases u with
  | nil => exact ⟨.none, rfl, rfl⟩
  | cons c rest =>
    by_cases hm : c = 0x2D
    · exact ⟨.minus, by rw [hm]; rfl, by rw [hm]; rfl⟩
    · by_cases hp : c = 0x2B
      · exact ⟨.plus, by rw [hp]; rfl, by rw [hp]; rfl⟩
      · rw [takeSign_of_no_sign rest hm hp]
        exact ⟨.none, rfl, rfl⟩

theorem PinSign.apply_eq (sign : PinSign) (n : Nat) :
    sign.apply n = if decide (sign = .minus) then -(n : Int) else n := by
  cases sign <;> rfl

/-- The sign, or the first digit, stops the white space in front of it. -/
theorem dropWhile_isWs_pin (sign : PinSign) {ws : List Byte} {d : Byte} (rest : List Byte) (hws : ws.all isWs)
    (hd : isDigit d = true) : (ws ++ (sign.text ++ d :: rest)).dropWhile isWs = sign.text ++ d :: rest := by
  cases sign with
  | none => exact dropWhile_append_cons _ hws (isWs_eq_false_of_isDigit hd)
  | plus => exact dropWhile_append_cons _ hws rfl
  | minus => exact dropWhile_append_cons _ hws rfl

/-- What `parse` answers for a text that has a pin field and a colon. -/
theorem parse_pin (sign : PinSign) {ws digits : List Byte} (rest : List Byte) (hws : ws.all isWs) (hne : digits ≠ [])
    (hdigits : digits.all isDigit) :
    parse (ws ++ sign.text ++ digits ++ 0x3A :: rest) =
      if takeToken rest = [] then .malformed
      else .ok (sign.apply (decimalValue digits)) (takeToken rest) := by
  have hsigned : takeSign ((ws ++ sign.text ++ digits ++ 0x3A :: rest).dropWhile isWs) =
      (decide (sign = .minus), digits ++ 0x3A :: rest) := by
    obtain ⟨d, ds, rfl⟩ := List.exists_cons_of_ne_nil hne
    have hd : isDigit d = true := List.all_eq_true.mp hdigits d List.mem_cons_self
    rw [List.append_assoc, List.append_assoc, List.cons_append, dropWhile_isWs_pin sign _ hws hd, takeSign_text sign hd]
  have hcolon : isDigit 0x3A = false := rfl
  simp only [parse, hsigned, takeWhile_append_cons rest hdigits hcolon, dropWhile_append_cons rest hdigits hcolon, hne,
    if_false, ne_eq, not_true_eq_false, PinSign.apply_eq]

/-- A text that `parse` accepts has a pin field, a colon and a token. -/
theorem exists_pin_of_parse {t : List Byte} {P : Int} {T : List Byte} (h : parse t = .ok P T) :
    ∃ (ws digits rest : List Byte) (sign : PinSign), t = ws ++ sign.text ++ digits ++ 0x3A :: rest ∧ ws.all isWs ∧
      digits ≠ [] ∧ digits.all isDigit ∧ P = sign.apply (decimalValue digits) ∧ T = takeToken rest ∧ T ≠ [] := by
  obtain ⟨sign, hu, hminus⟩ := takeSign_cases (t.dropWhile isWs)
  simp only [parse, hminus, ← PinSign.apply_eq] at h
  split at h
  · cases h
  next hne =>
  split at h
  · cases h
  next c rest hdrop =>
  split_ifs at h with hc htoken
  cases h
  refine ⟨t.takeWhile isWs, _, rest, sign, ?_, List.all_takeWhile, hne, List.all_takeWhile, rfl, rfl, htoken⟩
  calc t = t.takeWhile isWs ++ t.dropWhile isWs := List.takeWhile_append_dropWhile.symm
    _ = t.takeWhile isWs ++ (sign.text ++ (takeSign (t.dropWhile isWs)).2) := by rw [← hu]
    _ = _ := by
      rw [← not_not.mp hc, ← hdrop, List.append_assoc, List.append_assoc, List.takeWhile_append_dropWhile]

theorem isCommand_of_parse {t : List Byte} {P : Int} {T : List Byte} (hzero : 0x00 ∉ t) (h : parse t = .ok P T) :
    IsCommand t P T := by
  obtain ⟨ws, digits, rest, sign, rfl, hws, hne, hdigits, hP, rfl, hT⟩ := exists_pin_of_parse h
  obtain ⟨ws2, tail, heq, hws2, hstop⟩ := takeToken_stops rest
  refine ⟨ws, digits, ws2, tail, sign, by rw [← heq], hws, hws2, hne, hdigits, hP, hT, length_takeToken_le rest, ?_, ?_⟩
  · rw [List.all_eq_true]
    intro b hb
    have hrest : b ∈ rest := by rw [heq]; simp [hb]
    have hb0 : b ≠ 0x00 := ne_of_mem_of_not_mem (List.mem_append_right _ (List.mem_cons_of_mem _ hrest)) hzero
    have hbws : (!isWs b) = true := List.all_eq_true.mp (takeToken_all rest) b hb
    simp only [isNws, hbws, hb0, ne_eq, not_false_eq_true, decide_true, Bool.and_true]
  · simpa [RunStops] using hstop

theorem parse_of_isCommand {t : List Byte} {P : Int} {T : List Byte} (h : IsCommand t P T) : parse t = .ok P T := by
  obtain ⟨ws, digits, ws2, rest, sign, rfl, hws, hws2, hne, hdigits, rfl, hT, hlen, hnws, hend⟩ := h
  have hall : T.all (!isWs ·) := by
    rw [List.all_eq_true] at hnws ⊢
    exact fun b hb => (Bool.and_eq_true_iff.mp (hnws b hb)).1
  rw [parse_pin sign _ hws hne hdigits, takeToken_append hws2 hT hall hlen (by simpa [RunStops] using hend), if_neg hT]

/-- Settles O34: `isCommand_of_parse` and `parse_of_isCommand`. -/
theorem parseMatchesGrammar : Obligations.ParseMatchesGrammar :=
  fun _ _ _ hzero => ⟨isCommand_of_parse hzero, parse_of_isCommand⟩

end Sys2Proof.Machine
end

section
/-!
Numerals and command texts (R56, R57; log 29): a numeral has the value it was written for and is never longer than
another one of that value.
-/
namespace Sys2Proof.Machine
open Sys2Proof

/-! ## Numerals -/

/-- One more decimal digit of a number read from the left (R57). -/
def pushDigit (v : Nat) (d : Byte) : Nat := 10 * v + (d.toNat - 0x30)

theorem decimalValue_eq_foldl (ds : List Byte) : decimalValue ds = ds.foldl pushDigit 0 := rfl

theorem pushDigit_digitByte (v : Nat) {d : Nat} (h : d < 10) : pushDigit v (digitByte d) = 10 * v + d := by
  simp only [pushDigit, digitByte, BitVec.toNat_ofNat]
  omega

/-- The decimal digits in front of `acc` carry the value into it. -/
theorem foldl_decimalDigits (fuel n : Nat) (acc : List Byte) (h : n < fuel) :
    (decimalDigits fuel n acc).foldl pushDigit 0 = acc.foldl pushDigit n := by
  induction fuel generalizing n acc with
  | zero => omega
  | succ fuel ih =>
    have hdigit (v : Nat) := pushDigit_digitByte v (Nat.mod_lt n (show 0 < 10 by decide))
    unfold decimalDigits
    split
    case isTrue hn =>
      rw [List.foldl_cons, hdigit]
      congr 1
      omega
    case isFalse hn =>
      rw [ih _ _ (by omega), List.foldl_cons, hdigit]
      congr 1
      omega

theorem decimalValue_natText (n : Nat) : decimalValue (natText n) = n :=
  foldl_decimalDigits (n + 1) n [] n.lt_succ_self

theorem isDigit_digitByte {d : Nat} (h : d < 10) : isDigit (digitByte d) = true := by
  revert d; decide

theorem decimalDigits_all_isDigit (fuel n : Nat) (acc : List Byte) (h : acc.all isDigit) :
    (decimalDigits fuel n acc).all isDigit := by
  induction fuel generalizing n acc with
  | zero => exact h
  | succ fuel ih =>
    have hcons : (digitByte (n % 10) :: acc).all isDigit := by
      rw [List.all_cons, isDigit_digitByte (Nat.mod_lt n (by decide)), h, Bool.and_self]
    unfold decimalDigits
    split
    · exact hcons
    · exact ih _ _ hcons

theorem natText_all_isDigit (n : Nat) : (natText n).all isDigit := decimalDigits_all_isDigit _ _ _ rfl

theorem natText_ne_nil (n : Nat) : natText n ≠ [] := by
  intro h
  have hzero : n = 0 := by rw [← decimalValue_natText n, h]; rfl
  subst hzero
  exact absurd h (by decide)

/-- A number below 10^k has at most k digits. -/
theorem length_decimalDigits_le (fuel n k : Nat) (acc : List Byte) (hk : 0 < k) (hn : n < 10 ^ k) :
    (decimalDigits fuel n acc).length ≤ k + acc.length := by
  induction fuel generalizing n k acc with
  | zero => exact Nat.le_add_left _ _
  | succ fuel ih =>
    unfold decimalDigits
    split
    case isTrue => rw [List.length_cons]; omega
    case isFalse hne =>
      obtain ⟨k, rfl⟩ := Nat.exists_eq_succ_of_ne_zero hk.ne'
      have hk' : 0 < k := by
        rcases Nat.eq_zero_or_pos k with rfl | hpos
        · omega
        · exact hpos
      have := ih (n / 10) k (digitByte (n % 10) :: acc) hk' (by rw [pow_succ] at hn; omega)
      rw [List.length_cons] at this
      omega

theorem pushDigit_lt (v : Nat) {d : Byte} (h : isDigit d = true) : pushDigit v d < (v + 1) * 10 := by
  have hd : d.toNat - 0x30 < 10 := by
    revert d; decide
  unfold pushDigit
  omega

theorem foldl_digits_lt (ds : List Byte) (v : Nat) (h : ds.all isDigit) :
    ds.foldl pushDigit v < (v + 1) * 10 ^ ds.length := by
  induction ds generalizing v with
  | nil => simp
  | cons d ds ih =>
    obtain ⟨hd, hds⟩ := Bool.and_eq_true_iff.mp (List.all_cons ▸ h)
    calc ds.foldl pushDigit (pushDigit v d) < (pushDigit v d + 1) * 10 ^ ds.length := ih _ hds
      _ ≤ ((v + 1) * 10) * 10 ^ ds.length := Nat.mul_le_mul_right _ (pushDigit_lt v hd)
      _ = (v + 1) * 10 ^ (d :: ds).length := by rw [List.length_cons, pow_succ', Nat.mul_assoc]

/-- No numeral of a value is shorter than the one without leading zeros. -/
theorem length_natText_decimalValue_le {ds : List Byte} (hne : ds ≠ []) (h : ds.all isDigit) :
    (natText (decimalValue ds)).length ≤ ds.length := by
  have hlt : decimalValue ds < 10 ^ ds.length :=
    (foldl_digits_lt ds 0 h).trans_eq (by rw [Nat.zero_add, Nat.one_mul])
  exact length_decimalDigits_le _ _ ds.length [] (List.length_pos_of_ne_nil hne) hlt

/-- The sign an integer is written with. -/
def signOf (z : Int) : PinSign := if z < 0 then .minus else .none

theorem intText_eq (z : Int) : intText z = (signOf z).text ++ natText z.natAbs := by
  unfold intText signOf
  split <;> rfl

theorem signOf_apply_natAbs (z : Int) : (signOf z).apply z.natAbs = z := by
  unfold signOf
  split
  · change -(z.natAbs : Int) = z
    omega
  · change (z.natAbs : Int) = z
    omega

theorem natAbs_apply (sign : PinSign) (n : Nat) : (sign.apply n).natAbs = n := by
  cases sign with
  | none => rfl
  | plus => rfl
  | minus => exact Int.natAbs_neg n

/-- A value that is written with a sign was read with one. -/
theorem length_signOf_apply_le (sign : PinSign) (n : Nat) : (signOf (sign.apply n)).text.length ≤ sign.text.length := by
  unfold signOf
  split
  case isFalse => exact Nat.zero_le _
  case isTrue h =>
    cases sign with
    | none => exact absurd h (by simp [PinSign.apply])
    | plus => exact le_rfl
    | minus => exact le_rfl

/-! ## Command texts -/

/-- The canonical text of a command is no longer than any text of it (R56 to R58). -/
theorem length_commandText_le {t : List Byte} {P : Int} {T : List Byte} (h : IsCommand t P T) :
    (commandText P T).length ≤ t.length := by
  obtain ⟨ws, digits, ws2, rest, sign, rfl, -, -, hne, hdigits, rfl, -⟩ := h
  have hsign := length_signOf_apply_le sign (decimalValue digits)
  have hnum := length_natText_decimalValue_le hne hdigits
  simp only [commandText, intText_eq, natAbs_apply, List.length_append, List.length_cons]
  omega

/-- The canonical text of a command is a command with its pin field and token. -/
theorem isCommand_commandText (P : Int) {T : List Byte} (hne : T ≠ []) (hlen : T.length ≤ 9) (hnws : T.all isNws) :
    IsCommand (commandText P T) P T := by
  refine ⟨[], natText P.natAbs, [], [], signOf P, ?_, rfl, rfl, natText_ne_nil _, natText_all_isDigit _, ?_, hne, hlen,
    hnws, .inr (.inl rfl)⟩
  · simp [commandText, intText_eq]
  · rw [decimalValue_natText, signOf_apply_natAbs]

theorem zero_not_mem_commandText (P : Int) {T : List Byte} (hnws : T.all isNws) : 0x00 ∉ commandText P T := by
  have hdigits : 0x00 ∉ natText P.natAbs := fun h =>
    absurd (List.all_eq_true.mp (natText_all_isDigit _) _ h) (by decide)
  have htoken : 0x00 ∉ T := fun h => absurd (List.all_eq_true.mp hnws _ h) (by decide)
  have hsign : ∀ sign : PinSign, 0x00 ∉ sign.text := by
    rintro (_ | _ | _) <;> decide
  simp only [commandText, intText_eq, List.mem_append, List.mem_cons, not_or]
  exact ⟨⟨hsign _, hdigits⟩, by decide, htoken⟩

/-- A token that a command row can have (R58, R60). -/
def IsToken (T : List Byte) : Prop := T ≠ [] ∧ T.length ≤ 9 ∧ T.all isNws

theorem isToken_of_isCommand {t : List Byte} {P : Int} {T : List Byte} (h : IsCommand t P T) : IsToken T := by
  obtain ⟨_, _, _, _, _, -, -, -, -, -, -, hne, hlen, hnws, -⟩ := h
  exact ⟨hne, hlen, hnws⟩

theorem isToken_tokenOf (a : Action) : IsToken (tokenOf a) := by
  cases a <;> exact ⟨by decide, by decide, by decide⟩

theorem unknownToken_iff (T : List Byte) : unknownToken T = true ↔ IsToken T ∧ actionOf T = none := by
  have hmax : tokenMax = 9 := rfl
  simp only [unknownToken, IsToken, hmax, Bool.and_eq_true, decide_eq_true_eq, and_assoc]

/-- A command that fits in one WRITE is read back from its canonical text. -/
theorem decodeCmd_commandText {P : Int} {T : List Byte} (hfits : commandFits P T = true) (hT : IsToken T) :
    decodeCmd (commandText P T) = commandOf (.ok P T) := by
  obtain ⟨hne, hlen, hnws⟩ := hT
  rw [decodeCmd, effectiveText_of_fits (of_decide_eq_true hfits) (zero_not_mem_commandText P hnws),
    parse_of_isCommand (isCommand_commandText P hne hlen hnws)]

end Sys2Proof.Machine
end

section
/-!
OP and HOST texts read back (R63; logs 13, 15): numbers, calls, texts in quotes, and the whole encoding of each row.
-/
namespace Sys2Proof.Machine
open Sys2Proof

/-! ## Numbers in front of a text -/

/-- The text does not go on with the number in front of it: neither a digit nor the "x" of "0x". -/
def endsNumber : List Byte → Bool
  | [] => true
  | b :: _ => !isDigit b && b ≠ 0x78

theorem stripPrefix_append (opening rest : List Byte) : stripPrefix opening (opening ++ rest) = some rest := by
  induction opening with
  | nil => rfl
  | cons c opening ih => rw [List.cons_append, stripPrefix, if_pos rfl, ih]

/-- A text whose second byte is not "x" does not begin with "0x". -/
theorem stripPrefix_hex_of_ne {a b : Byte} (tail : List Byte) (hb : b ≠ 0x78) :
    stripPrefix (ascii ['0', 'x']) (a :: b :: tail) = none := by
  change (if 0x30 = a then if 0x78 = b then some tail else none else none) = none
  rw [if_neg hb.symm, ite_self]

/-- Digits and what ends them do not begin with "0x". -/
theorem stripPrefix_hex_digits {ds rest : List Byte} (hne : ds ≠ []) (hds : ds.all isDigit)
    (hrest : endsNumber rest = true) : stripPrefix (ascii ['0', 'x']) (ds ++ rest) = none := by
  match ds, rest, hne with
  | [d], [], _ => exact ite_self none
  | [d], b :: rest, _ =>
    refine stripPrefix_hex_of_ne rest ?_
    simpa using (Bool.and_eq_true_iff.mp hrest).2
  | d :: d' :: ds, rest, _ =>
    have hd' : isDigit d' = true := List.all_eq_true.mp hds d' (by simp)
    exact stripPrefix_hex_of_ne _ (ne_of_isDigit hd' rfl)

theorem readNat_natText (n : Nat) {rest : List Byte} (hrest : endsNumber rest = true) :
    readNat (natText n ++ rest) = some (n, rest) := by
  have htake : (natText n ++ rest).takeWhile isDigit = natText n := by
    cases rest with
    | nil =>
      rw [List.append_nil, List.takeWhile_eq_self_iff]
      exact List.all_eq_true.mp (natText_all_isDigit n)
    | cons b rest =>
      obtain ⟨hb, -⟩ : isDigit b = false ∧ b ≠ 0x78 := by simpa [endsNumber] using hrest
      exact takeWhile_append_cons rest (natText_all_isDigit n) hb
  have hdrop : (natText n ++ rest).dropWhile isDigit = rest := by
    have hsplit := List.takeWhile_append_dropWhile (p := isDigit) (l := natText n ++ rest)
    rw [htake] at hsplit
    exact List.append_cancel_left hsplit
  have hdecimal := stripPrefix_hex_digits (natText_ne_nil n) (natText_all_isDigit n) hrest
  simp only [readNat, hdecimal, htake, hdrop, natText_ne_nil, if_false, decimalValue_natText]

theorem stripPrefix_minus_natText (n : Nat) (rest : List Byte) :
    stripPrefix (ascii ['-']) (natText n ++ rest) = none := by
  obtain ⟨d, ds, heq⟩ := List.exists_cons_of_ne_nil (natText_ne_nil n)
  have hd : isDigit d = true := List.all_eq_true.mp (natText_all_isDigit n) d (by rw [heq]; exact List.mem_cons_self)
  rw [heq]
  exact if_neg (ne_of_isDigit hd rfl).symm

theorem readInt_intText (z : Int) {rest : List Byte} (hrest : endsNumber rest = true) :
    readInt (intText z ++ rest) = some (z, rest) := by
  unfold intText
  split
  case isTrue hneg =>
    rw [List.cons_append, readInt, show stripPrefix (ascii ['-']) (0x2D :: (natText z.natAbs ++ rest)) = some _ from rfl]
    simp only [readNat_natText _ hrest, Option.map_some, Option.some.injEq, Prod.mk.injEq, and_true]
    omega
  case isFalse hpos =>
    simp only [readInt, stripPrefix_minus_natText, readNat_natText _ hrest, Option.map_some, Option.some.injEq,
      Prod.mk.injEq, and_true]
    omega

/-! ## Calls -/

theorem readCall1_callText1 (name : List Byte) (z : Int) : readCall1 name (callText1 name z) = some z := by
  have hend : endsNumber (ascii [')']) = true := rfl
  simp only [readCall1, callText1]
  rw [List.append_assoc, stripPrefix_append, Option.bind_some, readInt_intText z hend, Option.bind_some, if_pos rfl]

theorem readCall2_callText2 (name : List Byte) (y z : Int) : readCall2 name (callText2 name y z) = some (y, z) := by
  have hcomma (rest : List Byte) : endsNumber (ascii [',', ' '] ++ rest) = true := rfl
  have hend : endsNumber (ascii [')']) = true := rfl
  simp only [readCall2, callText2]
  rw [List.append_assoc, List.append_assoc, List.append_assoc, stripPrefix_append, Option.bind_some,
    readInt_intText y (hcomma _), Option.bind_some, stripPrefix_append, Option.bind_some, readInt_intText z hend,
    Option.bind_some, if_pos rfl]

/-- A text is read by a form when no form before it reads the text. -/
theorem findSome?_of_form {forms : List (List Byte → Option Instr)} {form : List Byte → Option Instr} {bs : List Byte}
    {i : Instr} (k : Nat) (hk : forms[k]? = some form) (hskip : ((forms.take k).findSome? fun f => f bs) = none)
    (hform : form bs = some i) : (forms.findSome? fun f => f bs) = some i := by
  obtain ⟨hlt, rfl⟩ := List.getElem?_eq_some_iff.mp hk
  rw [← List.take_append_drop k forms, List.findSome?_append, hskip, Option.none_or, List.drop_eq_getElem_cons hlt,
    List.findSome?_cons, hform]

theorem decodeOp_of_form {form : List Byte → Option Instr} {bs : List Byte} {i : Instr} (k : Nat)
    (hk : opForms[k]? = some form) (hskip : ((opForms.take k).findSome? fun f => f bs) = none)
    (hform : form bs = some i) : decodeOp bs = .ok i := by
  rw [decodeOp, findSome?_of_form k hk hskip hform]

theorem decodeOp_of_call1 {name : List Byte} {z : Int} {mk : Int → Instr} (k : Nat)
    (hk : opForms[k]? = some fun bs => (readCall1 name bs).map mk)
    (hskip : ((opForms.take k).findSome? fun f => f (callText1 name z)) = none) :
    decodeOp (callText1 name z) = .ok (mk z) :=
  decodeOp_of_form k hk hskip (congrArg (Option.map mk) (readCall1_callText1 name z))

theorem wordOf_toNat (v : Word) : wordOf v.toNat = some v := by
  have hlt : (v.toNat : Int) < 2 ^ 32 := by exact_mod_cast v.isLt
  rw [wordOf, if_pos ⟨Int.natCast_nonneg _, hlt⟩, BitVec.ofInt_natCast, BitVec.ofNat_toNat, BitVec.setWidth_eq]

/-- The forms are tried in the order of `opForms`: on each text the ones before its own fail at the name. -/
theorem decodeOp_encodeBytes {i : Instr} (hl : i.level = .op) (hwf : wellFormed i = true) :
    decodeOp (encodeBytes i) = .ok i := by
  cases i with
  | map => rfl
  | unmap => rfl
  | readWord off => exact decodeOp_of_call1 2 rfl rfl
  | writeWord off v =>
    refine decodeOp_of_form 3 rfl rfl ?_
    change (readCall2 nameWriteWord (callText2 nameWriteWord off v.toNat)).bind _ = _
    rw [readCall2_callText2, Option.bind_some, wordOf_toNat, Option.map_some]
  | configureAsOutput p => exact decodeOp_of_call1 4 rfl rfl
  | set p => exact decodeOp_of_call1 5 rfl rfl
  | clear p => exact decodeOp_of_call1 6 rfl rfl
  | blink p d =>
    have hread := readCall2_callText2 nameBlink p d
    exact decodeOp_of_form 7 rfl rfl (congrArg (Option.map fun a => Instr.blink a.1 a.2) hread)
  | delay ms =>
    have hms : (0 : Int) < ms := Int.natCast_pos.mpr (of_decide_eq_true hwf)
    refine decodeOp_of_form 8 rfl rfl ?_
    change (readCall1 nameDelay (callText1 nameDelay ms)).bind _ = _
    rw [readCall1_callText1, Option.bind_some, if_pos hms, Int.toNat_natCast]
  | _ => cases hl

/-! ## Texts in quotes (log 15) -/

@[simp] theorem prepend_some (bs as rest : List Byte) : prepend bs (some (as, rest)) = some (bs ++ as, rest) := rfl

theorem prepend_prepend (as bs : List Byte) (r : Option (List Byte × List Byte)) :
    prepend as (prepend bs r) = prepend (as ++ bs) r := by
  cases r <;> simp [prepend]

theorem prepend_nil (r : Option (List Byte × List Byte)) : prepend [] r = r := by
  cases r <;> rfl

/-- A byte that is written as itself stands for itself. -/
theorem readQuoted_plain_cons {b : Byte} (rest : List Byte) (hquote : b ≠ 0x22) (hslash : b ≠ 0x5C) :
    readQuoted .plain (b :: rest) = prepend [b] (readQuoted .plain rest) := by
  simp only [readQuoted, escapeMove, if_neg hquote, if_neg hslash, List.nil_append]

/-- After three octal digits an escape is complete: whatever comes next is read as plain text. -/
theorem readQuoted_octal_complete (v : Nat) (hv : v < 256) (rest : List Byte) :
    readQuoted (.octal v 0) rest = prepend [BitVec.ofNat 8 v] (readQuoted .plain rest) := by
  cases rest with
  | nil => rfl
  | cons c rest =>
    have hmove : escapeMove (.octal v 0) c = .outside [BitVec.ofNat 8 v] := by
      cases hc : octalDigit c <;> simp only [escapeMove, hc, if_pos hv]
    rw [readQuoted, hmove, readQuoted, escapeMove]
    split_ifs
    · rfl
    · rw [prepend_prepend, List.append_nil]
    · rw [prepend_prepend, List.nil_append]

theorem octalDigit_digitByte {d : Nat} (hd : d < 8) : octalDigit (digitByte d) = some d := by
  revert d; decide

theorem escapeMove_slash_octal {d : Nat} (hd : d < 8) : escapeMove .slash (digitByte d) = .inside (.octal d 2) := by
  revert d; decide

theorem escapeMove_octal_digit {d : Nat} (v left : Nat) (hd : d < 8) :
    escapeMove (.octal v (left + 1)) (digitByte d) = .inside (.octal (8 * v + d) left) := by
  simp only [escapeMove, octalDigit_digitByte hd]

/-- An octal escape of three digits. -/
theorem readQuoted_octal_escape {d₂ d₁ d₀ : Nat} (h₂ : d₂ < 4) (h₁ : d₁ < 8) (h₀ : d₀ < 8) (rest : List Byte) :
    readQuoted .plain (0x5C :: digitByte d₂ :: digitByte d₁ :: digitByte d₀ :: rest) =
      prepend [BitVec.ofNat 8 (8 * (8 * d₂ + d₁) + d₀)] (readQuoted .plain rest) := by
  have hslash (cs : List Byte) : readQuoted .plain (0x5C :: cs) = readQuoted .slash cs := prepend_nil _
  rw [hslash, readQuoted, escapeMove_slash_octal (by omega)]
  simp only [readQuoted, escapeMove_octal_digit _ _ h₁, escapeMove_octal_digit _ _ h₀]
  exact readQuoted_octal_complete _ (by omega) rest

theorem readQuoted_quoteByte (b : Byte) (rest : List Byte) :
    readQuoted .plain (quoteByte b ++ rest) = prepend [b] (readQuoted .plain rest) := by
  unfold quoteByte
  split
  case isTrue h =>
    obtain ⟨-, -, hquote, hslash⟩ := h
    exact readQuoted_plain_cons rest hquote hslash
  case isFalse =>
    have hlt := b.isLt
    have hvalue : 8 * (8 * (b.toNat / 64) + b.toNat / 8 % 8) + b.toNat % 8 = b.toNat := by omega
    have hread := readQuoted_octal_escape (d₂ := b.toNat / 64) (by omega) (Nat.mod_lt (b.toNat / 8) (by decide))
      (Nat.mod_lt b.toNat (by decide)) rest
    rwa [hvalue, BitVec.ofNat_toNat, BitVec.setWidth_eq] at hread

theorem readQuoted_quoted (buf rest : List Byte) :
    readQuoted .plain (buf.flatMap quoteByte ++ 0x22 :: rest) = some (buf, rest) := by
  induction buf with
  | nil => rfl
  | cons b buf ih =>
    rw [List.flatMap_cons, List.append_assoc, readQuoted_quoteByte, ih, prepend_some, List.singleton_append]

/-! ## Host requests -/

theorem readDraw_draw {fails : List Byte} (hfails : fails ≠ []) (ok : Bool) :
    readDraw fails (if ok then [] else fails) = some ok := by
  cases ok with
  | true => rfl
  | false =>
    change readDraw fails fails = some false
    rw [readDraw, if_neg hfails, if_pos rfl]

theorem readWriteRequest_encodeBytes (buf : List Byte) (ok : Bool) :
    readWriteRequest (encodeBytes (.write buf ok)) = some (.write buf ok) := by
  simp only [readWriteRequest, encodeBytes, List.append_assoc, List.singleton_append, stripPrefix_append,
    Option.bind_some, readQuoted_quoted, readDraw_draw (show copyInFails ≠ [] by decide), Option.map_some]

theorem readReadRequest_encodeBytes (n : Nat) (off : Int) (ok : Bool) :
    readReadRequest (encodeBytes (.read n off ok)) = some (.read n off ok) := by
  have hspace (rest : List Byte) : endsNumber (ascii [' '] ++ rest) = true := rfl
  have hdraw : endsNumber (if ok then [] else copyOutFails) = true := by cases ok <;> rfl
  simp only [readReadRequest, encodeBytes, List.append_assoc, stripPrefix_append, Option.bind_some,
    readNat_natText n (hspace _), readInt_intText off hdraw, readDraw_draw (show copyOutFails ≠ [] by decide),
    Option.map_some]

theorem decodeHost_of_form {form : List Byte → Option Instr} {bs : List Byte} {i : Instr} (k : Nat)
    (hk : hostForms[k]? = some form) (hskip : ((hostForms.take k).findSome? fun f => f bs) = none)
    (hform : form bs = some i) : decodeHost bs = .ok i := by
  rw [decodeHost, findSome?_of_form k hk hskip hform]

theorem decodeHost_encodeBytes {i : Instr} (hl : i.level = .host) : decodeHost (encodeBytes i) = .ok i := by
  cases i with
  | openChannel => rfl
  | write buf ok => exact decodeHost_of_form 1 rfl rfl (readWriteRequest_encodeBytes buf ok)
  | read n off ok => exact decodeHost_of_form 2 rfl rfl (readReadRequest_encodeBytes n off ok)
  | closeChannel => rfl
  | startup => rfl
  | shutdown => rfl
  | _ => cases hl

end Sys2Proof.Machine
end

section
/-!
BUS words (R33, R51; logs 13, 14): the fields of a packed value, the rows it matches, and the fault of a value without a
row; with O10, O11 and O52.
-/
namespace Sys2Proof.Machine
open Sys2Proof

/-! ## The packing of R51 -/

/-- The number of a packed access, the kind as bit 64 (R51). -/
def busNumber (isWrite : Bool) (off data : Word) : Nat := isWrite.toNat * 2 ^ 64 + off.toNat * 2 ^ 32 + data.toNat

theorem busNumber_lt (isWrite : Bool) (off data : Word) : busNumber isWrite off data < 2 ^ 65 := by
  have hkind := isWrite.toNat_le
  have hoff := off.isLt
  have hdata := data.isLt
  unfold busNumber
  omega

/-- The 65-bit value of an access (R51). -/
def packBus (isWrite : Bool) (off data : Word) : BitVec 65 := BitVec.ofNat 65 (busNumber isWrite off data)

theorem toNat_packBus (isWrite : Bool) (off data : Word) :
    (packBus isWrite off data).toNat = isWrite.toNat * 2 ^ 64 + off.toNat * 2 ^ 32 + data.toNat := by
  rw [packBus, BitVec.toNat_ofNat, Nat.mod_eq_of_lt (busNumber_lt isWrite off data), busNumber]

theorem leValue_leBytes (k w : Nat) : leValue (leBytes k w) = w % 256 ^ k := by
  induction k generalizing w with
  | zero => simp [leBytes, leValue, Nat.mod_one]
  | succ k ih => rw [leBytes, leValue, ih, BitVec.toNat_ofNat, pow_succ' 256, Nat.mod_mul]

theorem busBytes_eq (isWrite : Bool) (off data : Word) :
    busBytes isWrite off data = leBytes 9 (busNumber isWrite off data) := by
  cases isWrite <;> simp only [busBytes, busNumber, Bool.toNat_true, Bool.toNat_false, if_true, Bool.false_eq_true,
    if_false, Nat.one_mul, Nat.zero_mul]

theorem decodeBus_busBytes (isWrite : Bool) (off data : Word) :
    decodeBus (busBytes isWrite off data) = decodeBusWord (packBus isWrite off data) := by
  have hlt := busNumber_lt isWrite off data
  have hvalue : leValue (busBytes isWrite off data) = busNumber isWrite off data := by
    rw [busBytes_eq, leValue_leBytes, Nat.mod_eq_of_lt (hlt.trans (by decide))]
  rw [decodeBus, hvalue, if_pos ⟨Laws.Encoding.length_leBytes 9 _, hlt⟩, packBus]

@[simp] theorem busData_packBus (isWrite : Bool) (off data : Word) : busData (packBus isWrite off data) = data := by
  have hdata := data.isLt
  apply BitVec.eq_of_toNat_eq
  rw [busData, BitVec.extractLsb'_toNat, toNat_packBus, Nat.shiftRight_zero]
  omega

@[simp] theorem busOff_packBus (isWrite : Bool) (off data : Word) : busOff (packBus isWrite off data) = off := by
  have hoff := off.isLt
  have hdata := data.isLt
  apply BitVec.eq_of_toNat_eq
  rw [busOff, BitVec.extractLsb'_toNat, toNat_packBus, Nat.shiftRight_eq_div_pow]
  omega

@[simp] theorem busIsWrite_packBus (isWrite : Bool) (off data : Word) :
    busIsWrite (packBus isWrite off data) = isWrite := by
  have hoff := off.isLt
  have hdata := data.isLt
  have hkind : (isWrite.toNat * 2 ^ 64 + off.toNat * 2 ^ 32 + data.toNat) / 2 ^ 64 = isWrite.toNat := by omega
  rw [busIsWrite, BitVec.getLsbD, toNat_packBus, Nat.testBit_eq_decide_div_mod_eq, hkind]
  cases isWrite <;> rfl

/-- The mask keeps the kind and the offset, and clears the data field. -/
theorem and_busMask (w : BitVec 65) : w &&& busMask = w >>> 32 <<< 32 := by
  have hmask : busMask = BitVec.allOnes 65 <<< 32 := by decide
  refine BitVec.eq_of_getLsbD_eq fun i hi => ?_
  simp only [hmask, BitVec.getLsbD_and, BitVec.getLsbD_shiftLeft, BitVec.getLsbD_allOnes, BitVec.getLsbD_ushiftRight, hi]
  by_cases h : i < 32
  · simp [h]
  · simp [h, show i - 32 < 65 by omega, show 32 + (i - 32) = i by omega]

theorem packBus_and_busMask (isWrite : Bool) (off data : Word) :
    packBus isWrite off data &&& busMask = packBus isWrite off 0 := by
  have hkind := isWrite.toNat_le
  have hoff := off.isLt
  have hdata := data.isLt
  have hzero : (0 : Word).toNat = 0 := rfl
  apply BitVec.eq_of_toNat_eq
  rw [and_busMask, BitVec.toNat_shiftLeft, BitVec.toNat_ushiftRight, toNat_packBus, toNat_packBus,
    Nat.shiftRight_eq_div_pow, Nat.shiftLeft_eq, hzero]
  omega

/-! ## The rows of R51 -/

/-- The row of a packed value, by its kind and offset alone. -/
def busRowOf (isWrite : Bool) (off : Word) : Option (BitVec 65 × (Word → Instr)) :=
  busRows.find? fun row => packBus isWrite off 0 = row.1

theorem find?_packBus (isWrite : Bool) (off data : Word) :
    (busRows.find? fun row => packBus isWrite off data &&& busMask = row.1) = busRowOf isWrite off := by
  rw [packBus_and_busMask, busRowOf]

theorem decodeBus_of_row {isWrite : Bool} {off : Word} {row : BitVec 65 × (Word → Instr)}
    (h : busRowOf isWrite off = some row) (data : Word) : decodeBus (busBytes isWrite off data) = .ok (row.2 data) := by
  rw [decodeBus_busBytes, decodeBusWord, find?_packBus, h, busData_packBus]

theorem decodeBus_of_no_row {isWrite : Bool} {off : Word} (h : busRowOf isWrite off = none) (data : Word) :
    decodeBus (busBytes isWrite off data) = .error (.busNoRow isWrite off data) := by
  rw [decodeBus_busBytes, decodeBusWord, find?_packBus, h, busIsWrite_packBus, busOff_packBus, busData_packBus]

theorem decodeBus_encodeBytes {i : Instr} (hl : i.level = .bus) : decodeBus (encodeBytes i) = .ok i := by
  cases i with
  | busRdFsel0 d => exact decodeBus_of_row (row := (_, .busRdFsel0)) rfl d
  | busRdFsel1 d => exact decodeBus_of_row (row := (_, .busRdFsel1)) rfl d
  | busRdFsel2 d => exact decodeBus_of_row (row := (_, .busRdFsel2)) rfl d
  | busRdFsel3 d => exact decodeBus_of_row (row := (_, .busRdFsel3)) rfl d
  | busRdFsel4 d => exact decodeBus_of_row (row := (_, .busRdFsel4)) rfl d
  | busRdFsel5 d => exact decodeBus_of_row (row := (_, .busRdFsel5)) rfl d
  | busWrFsel0 d => exact decodeBus_of_row (row := (_, .busWrFsel0)) rfl d
  | busWrFsel1 d => exact decodeBus_of_row (row := (_, .busWrFsel1)) rfl d
  | busWrFsel2 d => exact decodeBus_of_row (row := (_, .busWrFsel2)) rfl d
  | busWrFsel3 d => exact decodeBus_of_row (row := (_, .busWrFsel3)) rfl d
  | busWrFsel4 d => exact decodeBus_of_row (row := (_, .busWrFsel4)) rfl d
  | busWrFsel5 d => exact decodeBus_of_row (row := (_, .busWrFsel5)) rfl d
  | busWrSet0 d => exact decodeBus_of_row (row := (_, .busWrSet0)) rfl d
  | busWrClr0 d => exact decodeBus_of_row (row := (_, .busWrClr0)) rfl d
  | _ => cases hl

/-- Every row is an access of a stored register, or a write of SET0 or CLR0 (R51). -/
theorem fields_of_mem_busRows : ∀ row ∈ busRows,
    busOff row.1 ∈ ([0x00, 0x04, 0x08, 0x0C, 0x10, 0x14] : List Word) ∨
      (busIsWrite row.1 = true ∧ (busOff row.1 = 0x1C ∨ busOff row.1 = 0x28)) := by
  decide

theorem busRowOf_eq_none {isWrite : Bool} {off : Word} (hfsel : off ∉ ([0x00, 0x04, 0x08, 0x0C, 0x10, 0x14] : List Word))
    (hwrite : isWrite = true → off ≠ 0x1C ∧ off ≠ 0x28) : busRowOf isWrite off = none := by
  refine List.find?_eq_none.mpr fun row hrow heq => ?_
  have hfields := fields_of_mem_busRows row hrow
  rw [← of_decide_eq_true heq, busOff_packBus, busIsWrite_packBus] at hfields
  rcases hfields with hmem | ⟨hw, hset | hclr⟩
  · exact hfsel hmem
  · exact (hwrite hw).1 hset
  · exact (hwrite hw).2 hclr

/-! ## A value without a row (R35, R51, R61) -/

theorem step_of_decode_error {s : State} {c : Code} {rest : List Turn} {e : DecodeError}
    (ha : s.agenda = .request c :: rest) (hd : decode c = .error e) (hfree : executorFree s = true) :
    step s = rejectRequest e { s with agenda := rest } := by
  simp [step, nextMove, ha, hd, hfree]

/-- A rowless value whose access fails one of items 1 to 4 of R35. -/
theorem rejectRequest_of_select_error {isWrite : Bool} {off data : Word} {s : State} {code : FaultCode}
    (h : selectRegister off.toNat s = .error code) :
    rejectRequest (.busNoRow isWrite off data) s = .next (raiseFault code (.off off.toNat) s) := by
  cases isWrite with
  | false => exact finishRead_of_select_error h
  | true => exact finish_write_of_select_error data h

/-- The offset of a register, as a field of a packed value. -/
theorem mem_words_of_regOffset {off : Word} (h : ∃ r, (off.toNat : Int) = regOffset r) :
    off ∈ ([0x00, 0x04, 0x08, 0x0C, 0x10, 0x14] : List Word) ∨ off = 0x1C ∨ off = 0x28 := by
  have hinj : Function.Injective fun w : Word => (w.toNat : Int) :=
    fun v w hvw => BitVec.eq_of_toNat_eq (Int.ofNat.inj hvw)
  have hmem : off ∈ ([0x00, 0x04, 0x08, 0x0C, 0x10, 0x14, 0x1C, 0x28] : List Word) :=
    (List.mem_map_of_injective hinj).mp ((mem_offsets_iff off.toNat).mpr h)
  simpa only [List.mem_cons, List.not_mem_nil, or_false, or_assoc] using hmem

theorem rejectRequest_busNoRow {isWrite : Bool} {off data : Word} {s : State}
    (hfsel : off ∉ ([0x00, 0x04, 0x08, 0x0C, 0x10, 0x14] : List Word))
    (hwrite : isWrite = true → off ≠ 0x1C ∧ off ≠ 0x28) :
    rejectRequest (.busNoRow isWrite off data) s = .next (raiseFault
      (if s.map ≠ .mapped then .notMapped
       else if off.toNat % 4 ≠ 0 then .misaligned
       else if s.params.windowLen ≤ off.toNat then .outOfWindow
       else if off ≠ 0x1C ∧ off ≠ 0x28 then .undefinedRegister
       else .writeOnlyRead) (.off off.toNat) s) := by
  split
  case isTrue hmap => exact rejectRequest_of_select_error (selectRegister_of_not_mapped _ s hmap)
  case isFalse hmap =>
  have hm := not_not.mp hmap
  split
  case isTrue ha => exact rejectRequest_of_select_error (selectRegister_of_misaligned hm (by omega))
  case isFalse ha =>
  have ha' : (off.toNat : Int) % 4 = 0 := by omega
  split
  case isTrue hlen =>
    exact rejectRequest_of_select_error (selectRegister_of_outOfWindow hm ha' fun hw => by have := hw.2; omega)
  case isFalse hlen =>
  split
  case isTrue hreg =>
    have hnone : regAt off.toNat = none := regAt_eq_none fun h => by
      rcases mem_words_of_regOffset h with hmem | hset | hclr
      · exact hfsel hmem
      · exact hreg.1 hset
      · exact hreg.2 hclr
    exact rejectRequest_of_select_error (selectRegister_of_undefined hm ha' ⟨by omega, by omega⟩ hnone)
  case isFalse hreg =>
  obtain rfl : isWrite = false := Bool.eq_false_iff.mpr (mt hwrite hreg)
  rcases Decidable.or_iff_not_not_and_not.mpr hreg with rfl | rfl
  · exact congrArg finishRead (readReg_of_regValue_none .set0 s hm rfl)
  · exact congrArg finishRead (readReg_of_regValue_none .clr0 s hm rfl)

theorem decodeBus_of_width {bytes : List Byte} (h : bytes.length ≠ 9 ∨ 2 ^ 65 ≤ leValue bytes) :
    decodeBus bytes = .error .busWidth := by
  rw [decodeBus, if_neg]
  rintro ⟨hlen, hlt⟩
  exact h.elim (· hlen) hlt.not_ge

/-- Settles O52: the value decodes to no row, and its access fails the first of R35's checks that it can fail. -/
theorem busValueWithoutRowFaults : Obligations.BusValueWithoutRowFaults := by
  refine ⟨fun isWrite off data s rest hfsel hwrite ha hfree => ?_, fun bytes s rest hbytes ha hfree => ?_⟩
  · rw [step_of_decode_error ha (decodeBus_of_no_row (busRowOf_eq_none hfsel hwrite) data) hfree]
    exact rejectRequest_busNoRow hfsel hwrite
  · exact step_of_decode_error ha (decodeBus_of_width hbytes) hfree

/-! ## The BUS rows of the stored registers -/

/-- Settles O10: each row is READ_WORD of its register's offset. -/
theorem busReadsAnswerFsel : Obligations.BusReadsAnswerFsel := by
  intro d s hm
  have read (n : Fin 6) : exec (.readWord (regOffset (.fsel n))) s =
      .next (reply (.word (getFsel s.fsel n)) (emit (.rd (regOffset (.fsel n)) (getFsel s.fsel n)) s)) :=
    execReadWord_of_regValue_some hm rfl
  exact ⟨read 0, read 1, read 2, read 3, read 4, read 5⟩

/-- Settles O11: each row is WRITE_WORD to its register's offset. -/
theorem busWritesStoreFsel : Obligations.BusWritesStoreFsel := by
  intro v s hm
  have write (n : Fin 6) : exec (.writeWord (regOffset (.fsel n)) v) s =
      .next (emit (.wr (regOffset (.fsel n)) v) (writeReg (.fsel n) v s)) := execWriteWord_reg (.fsel n) v hm
  exact ⟨write 0, write 1, write 2, write 3, write 4, write 5⟩

end Sys2Proof.Machine
end

section
/-!
All levels together (R50): the decoder reads every encoding back, and reads nothing but well-formed operations; with O50,
O51 and O53.
-/
namespace Sys2Proof.Machine
open Sys2Proof

/-! ## Commands -/

theorem commandOf_of_unknownToken (P : Int) {T : List Byte} (h : unknownToken T = true) :
    commandOf (.ok P T) = .cmdUnknown P T := by
  simp only [commandOf, ((unknownToken_iff T).mp h).2]

theorem decodeCmd_encodeBytes {i : Instr} (hl : i.level = .cmd) (hwf : wellFormed i = true) :
    decodeCmd (encodeBytes i) = i := by
  cases i with
  | cmdOn p => exact decodeCmd_commandText hwf (isToken_tokenOf .on)
  | cmdOff p => exact decodeCmd_commandText hwf (isToken_tokenOf .off)
  | cmdBlink p => exact decodeCmd_commandText hwf (isToken_tokenOf .blink)
  | cmdUnknown p T =>
    obtain ⟨hfits, hunknown⟩ := Bool.and_eq_true_iff.mp hwf
    exact (decodeCmd_commandText hfits ((unknownToken_iff T).mp hunknown).1).trans (commandOf_of_unknownToken p hunknown)
  | cmdMalformed => rfl
  | _ => cases hl

/-- Settles O50: one lemma per level. -/
theorem decodeOfEncode : Obligations.DecodeOfEncode := by
  intro i hwf
  cases hl : i.level with
  | bus => simpa only [decode, encode, hl] using decodeBus_encodeBytes hl
  | op => simpa only [decode, encode, hl] using decodeOp_encodeBytes hl hwf
  | cmd => simpa only [decode, encode, hl] using congrArg Except.ok (decodeCmd_encodeBytes hl hwf)
  | host => simpa only [decode, encode, hl] using decodeHost_encodeBytes hl

/-! ## What the decoder can read -/

/-- A well-formed operation of a level. -/
def IsOperation (l : Level) (i : Instr) : Prop := i.level = l ∧ wellFormed i = true

/-- Whatever a reader answers is a well-formed operation of the level. -/
def Yields (l : Level) (r : Option Instr) : Prop := ∀ i, r = some i → IsOperation l i

theorem Yields.ite {l : Level} {c : Prop} [Decidable c] {i : Instr} (h : c → IsOperation l i) :
    Yields l (if c then some i else none) := by
  intro j hj
  split at hj
  next hc => exact Option.some.inj hj ▸ h hc
  next => cases hj

theorem Yields.map {α : Type} {l : Level} {mk : α → Instr} {r : Option α} (h : ∀ a, IsOperation l (mk a)) :
    Yields l (r.map mk) := by
  intro j hj
  obtain ⟨a, -, rfl⟩ := Option.map_eq_some_iff.mp hj
  exact h a

theorem Yields.bind {α : Type} {l : Level} {next : α → Option Instr} {r : Option α} (h : ∀ a, Yields l (next a)) :
    Yields l (r.bind next) := by
  intro j hj
  obtain ⟨a, -, ha⟩ := Option.bind_eq_some_iff.mp hj
  exact h a j ha

theorem Yields.findSome? {l : Level} {forms : List (List Byte → Option Instr)} {bs : List Byte}
    (h : ∀ form ∈ forms, Yields l (form bs)) : Yields l (forms.findSome? fun form => form bs) := by
  intro j hj
  obtain ⟨form, hmem, hform⟩ := List.exists_of_findSome?_eq_some hj
  exact h form hmem j hform

theorem yields_of_mem_opForms (bs : List Byte) : ∀ form ∈ opForms, Yields .op (form bs) := by
  simp only [opForms, List.forall_mem_cons, List.not_mem_nil, false_imp_iff, implies_true, and_true]
  exact ⟨.ite fun _ => ⟨rfl, rfl⟩, .ite fun _ => ⟨rfl, rfl⟩, .map fun _ => ⟨rfl, rfl⟩,
    .bind fun _ => .map fun _ => ⟨rfl, rfl⟩, .map fun _ => ⟨rfl, rfl⟩, .map fun _ => ⟨rfl, rfl⟩,
    .map fun _ => ⟨rfl, rfl⟩, .map fun _ => ⟨rfl, rfl⟩,
    .bind fun _ => .ite fun hms => ⟨rfl, decide_eq_true (Int.pos_iff_toNat_pos.mp hms)⟩⟩

theorem yields_readWriteRequest (bs : List Byte) : Yields .host (readWriteRequest bs) :=
  .bind fun _ => .bind fun _ => .map fun _ => ⟨rfl, rfl⟩

theorem yields_readReadRequest (bs : List Byte) : Yields .host (readReadRequest bs) :=
  .bind fun _ => .bind fun _ => .bind fun _ => .bind fun _ => .map fun _ => ⟨rfl, rfl⟩

theorem yields_of_mem_hostForms (bs : List Byte) : ∀ form ∈ hostForms, Yields .host (form bs) := by
  simp only [hostForms, List.forall_mem_cons, List.not_mem_nil, false_imp_iff, implies_true, and_true]
  exact ⟨.ite fun _ => ⟨rfl, rfl⟩, yields_readWriteRequest bs, yields_readReadRequest bs,
    .ite fun _ => ⟨rfl, rfl⟩, .ite fun _ => ⟨rfl, rfl⟩, .ite fun _ => ⟨rfl, rfl⟩⟩

theorem wellFormed_of_level_bus {i : Instr} (h : i.level = .bus) : wellFormed i = true := by
  cases i with
  | busRdFsel0 | busRdFsel1 | busRdFsel2 | busRdFsel3 | busRdFsel4 | busRdFsel5 => rfl
  | busWrFsel0 | busWrFsel1 | busWrFsel2 | busWrFsel3 | busWrFsel4 | busWrFsel5 | busWrSet0 | busWrClr0 => rfl
  | _ => cases h

theorem isOperation_of_decodeBus {bs : List Byte} {i : Instr} (h : decodeBus bs = .ok i) : IsOperation .bus i :=
  have hl := level_of_decodeBus bs i h
  ⟨hl, wellFormed_of_level_bus hl⟩

theorem isOperation_of_decodeOp {bs : List Byte} {i : Instr} (h : decodeOp bs = .ok i) : IsOperation .op i := by
  unfold decodeOp at h
  split at h
  · cases h
    exact Yields.findSome? (yields_of_mem_opForms bs) _ ‹_›
  · cases h

theorem isOperation_of_decodeHost {bs : List Byte} {i : Instr} (h : decodeHost bs = .ok i) : IsOperation .host i := by
  unfold decodeHost at h
  split at h
  · cases h
    exact Yields.findSome? (yields_of_mem_hostForms bs) _ ‹_›
  · cases h

theorem isOperation_commandOf {P : Int} {T : List Byte} (hfits : commandFits P T = true) (hT : IsToken T) :
    IsOperation .cmd (commandOf (.ok P T)) := by
  cases hact : actionOf T with
  | none =>
    have hunknown := (unknownToken_iff T).mpr ⟨hT, hact⟩
    rw [commandOf_of_unknownToken P hunknown]
    exact ⟨rfl, Bool.and_eq_true_iff.mpr ⟨hfits, hunknown⟩⟩
  | some a =>
    obtain rfl := (actionOf_eq_some_iff T a).mp hact
    cases a <;> exact ⟨rfl, hfits⟩

/-- The canonical text of a command that was delivered fits, because it is no longer than the delivered text. -/
theorem isOperation_decodeCmd (bs : List Byte) : IsOperation .cmd (decodeCmd bs) := by
  unfold decodeCmd
  cases hparse : parse (effectiveText bs) with
  | malformed => exact ⟨rfl, rfl⟩
  | ok P T =>
    have hcommand := isCommand_of_parse (zero_not_mem_effectiveText bs) hparse
    have hfits := (length_commandText_le hcommand).trans (length_effectiveText_le bs)
    exact isOperation_commandOf (decide_eq_true hfits) (isToken_of_isCommand hcommand)

/-- Settles O51: one lemma per level. -/
theorem decodeYieldsWellFormed : Obligations.DecodeYieldsWellFormed := by
  rintro ⟨level, bytes⟩ i h
  cases level with
  | bus => exact isOperation_of_decodeBus h
  | op => exact isOperation_of_decodeOp h
  | cmd => exact Except.ok.inj h ▸ isOperation_decodeCmd bytes
  | host => exact isOperation_of_decodeHost h

/-- Settles O53: six closed evaluations of the decoder. -/
theorem knownWordsDecode : Obligations.KnownWordsDecode := by
  unfold Obligations.KnownWordsDecode
  decide

end Sys2Proof.Machine
end

section
/-!
The Register Access Layer's own four operations (40_register_access.md): READ_WORD, WRITE_WORD, MAP and UNMAP, with O15,
O16, O19 and O20.
-/
namespace Sys2Proof.Machine
open Sys2Proof

/-! ## READ_WORD and WRITE_WORD (R67, R68) -/

/-- Settles O16: each write is `execWriteWord_reg` of its register; the bank and the latch then read as their laws say. -/
theorem writeWordEffect : Obligations.WriteWordEffect := by
  intro v s hm
  refine ⟨fun n => ⟨_, execWriteWord_reg (.fsel n) v hm, ?_, fun m hne => ?_, rfl⟩,
    ⟨_, execWriteWord_reg .set0 v hm, fun i => ?_, rfl⟩, ⟨_, execWriteWord_reg .clr0 v hm, fun i => ?_, rfl⟩⟩
  · rw [emit_fsel, writeReg_fsel_fsel, getFsel_setFsel_same]
  · rw [emit_fsel, writeReg_fsel_fsel, getFsel_setFsel_ne s.fsel n m v hne]
  · rw [emit_out, writeReg_set0_out, getLsbD_setBits]
  · rw [emit_out, writeReg_clr0_out, getLsbD_clearBits]

/-- Settles O15: FSELn is a register that stores a value. -/
theorem readWordAnswersStoredWord : Obligations.ReadWordAnswersStoredWord :=
  fun n _ hm => execReadWord_of_regValue_some (r := .fsel n) hm rfl

/-! ## MAP (R65) -/

theorem execMap_of_granted {s : State} {base : Nat} (hm : s.map = .preMap) (hg : s.params.mapGrant = .granted base) :
    exec .map s = .next (emit (.mapAnswered true) { s with map := .mapped, vbase := base }) := by
  simp [exec, execMap, mapWindow, hm, hg]

theorem execMap_of_refused {s : State} {reason : MapReason} (hm : s.map = .preMap)
    (hg : s.params.mapGrant = .refused reason) :
    exec .map s =
      .next (reply (.error .eMap (some reason)) (emit (.mapAnswered false) { s with map := .mapFailed })) := by
  simp [exec, execMap, mapWindow, hm, hg]

/-- A second MAP faults before it asks the environment. -/
theorem execMap_of_not_preMap {s : State} (hm : s.map ≠ .preMap) :
    exec .map s = .next (raiseFault .doubleMap (.map s.map) s) := by
  simp [exec, execMap, mapWindow, hm]

/-- Settles O19: one lemma per answer, and one for the fault. -/
theorem mapOutcome : Obligations.MapOutcome :=
  fun _ => ⟨fun _ => execMap_of_granted, fun _ => execMap_of_refused, execMap_of_not_preMap⟩

/-! ## UNMAP (R66) -/

theorem execUnmap_of_not_mapped {s : State} (hm : s.map ≠ .mapped) :
    exec .unmap s = .next (raiseFault .doubleUnmap (.map s.map) s) := by
  simp [exec, execUnmap, unmapWindow, hm, finish]

/-- The check of the sequencer comes after that of the mapping. -/
theorem execUnmap_of_busy {s : State} (hm : s.map = .mapped) (hq : s.seq ≠ .idle) :
    exec .unmap s = .next (raiseFault .busy (.seq s.seq) s) := by
  simp [exec, execUnmap, unmapWindow, hm, hq, finish]

/-- Settles O20: `execUnmap_of_mapped` and the two faults. -/
theorem unmapOutcome : Obligations.UnmapOutcome :=
  fun s => ⟨execUnmap_of_mapped s, execUnmap_of_not_mapped, execUnmap_of_busy⟩

end Sys2Proof.Machine
end

section
/-!
The Pin Controller (41_pin_controller.md): the states that CONFIGURE_AS_OUTPUT, SET and CLEAR end in, the bits of their
register and of the latch, and the commands that drive a pin, with O21, O23, O24, O25, O26 and O27.
-/
namespace Sys2Proof.Machine
open Sys2Proof

/-! ## The function field and LEVEL (R20, R70) -/

/-- The field itself becomes FSEL_OUTPUT: the mask clears its bits and the output bit is the lowest of them. -/
theorem extractLsb'_withOutputField_same (old : Word) (p : Nat) :
    (withOutputField old p).extractLsb' (fieldShift p) 3 = 1 := by
  have hle := fieldShift_le p
  refine BitVec.eq_of_getLsbD_eq fun i hi => ?_
  have hmask : fieldShift p + i < 32 ∧ fieldShift p ≤ fieldShift p + i ∧ fieldShift p + i < fieldShift p + 3 := by
    omega
  simp only [BitVec.getLsbD_extractLsb', withOutputField, BitVec.getLsbD_or, BitVec.getLsbD_and, BitVec.getLsbD_not,
    getLsbD_fieldMask, getLsbD_output_shift, hmask, hi]
  simp

theorem withOutputField_withOutputField (old : Word) (p : Nat) :
    withOutputField (withOutputField old p) p = withOutputField old p := by
  refine BitVec.eq_of_getLsbD_eq fun i hi => ?_
  simp only [withOutputField, BitVec.getLsbD_or, BitVec.getLsbD_and]
  cases old.getLsbD i <;> cases (~~~ fieldMask p).getLsbD i <;> simp

/-- The bank with pin p's field set to output (R70). -/
def asOutput (b : FselBank) (p : Fin 54) : FselBank :=
  setFsel b (pinReg p) (withOutputField (getFsel b (pinReg p)) p.val)

theorem getFsel_asOutput_same (b : FselBank) (p : Fin 54) :
    getFsel (asOutput b p) (pinReg p) = withOutputField (getFsel b (pinReg p)) p.val :=
  getFsel_setFsel_same ..

theorem getFsel_asOutput_ne (b : FselBank) (p : Fin 54) (m : Fin 6) (h : m ≠ pinReg p) :
    getFsel (asOutput b p) m = getFsel b m :=
  getFsel_setFsel_ne b _ m _ h

theorem pinField_asOutput (b : FselBank) (p : Fin 54) : pinField (asOutput b p) p = 1 := by
  rw [pinField_eq, getFsel_asOutput_same, extractLsb'_withOutputField_same]

/-- Setting a field to output a second time changes nothing (R76). -/
theorem asOutput_asOutput (b : FselBank) (p : Fin 54) : asOutput (asOutput b p) p = asOutput b p := by
  rw [asOutput, getFsel_asOutput_same, withOutputField_withOutputField, asOutput, setFsel_setFsel]

theorem level_of_output {s : State} {p : Fin 54} (h : pinField s.fsel p = 1) :
    s.level p = some (s.out.getLsbD p.val) := if_pos h

theorem level_of_not_output {s : State} {p : Fin 54} (h : pinField s.fsel p ≠ 1) : s.level p = none := if_neg h

/-! ## CONFIGURE_AS_OUTPUT (R70) -/

/-- The state that CONFIGURE_AS_OUTPUT(p) ends in: the pin's register is read and written back. -/
def configured (p : Fin 54) (s : State) : State :=
  { s with
    fsel := asOutput s.fsel p
    trace := s.trace ++ [.rd (4 * (pinReg p).val) (getFsel s.fsel (pinReg p)),
      .wr (4 * (pinReg p).val) (getFsel (asOutput s.fsel p) (pinReg p))] }

theorem configurablePin_fin (p : Fin 54) : configurablePin p.val = true := (configurablePin_iff p.val).mpr (by omega)

theorem execConfigureAsOutput_mapped (p : Fin 54) {s : State} (hm : s.map = .mapped) :
    exec (.configureAsOutput p.val) s = .next (configured p s) := by
  have hconf := configureAsOutput_mapped p.val s (configurablePin_fin p) hm
  rw [exec, execConfigureAsOutput, hconf, finish, resState_done, configured, getFsel_asOutput_same]
  simp only [emit, writeReg, List.append_assoc]
  rfl

theorem execConfigureAsOutput_out_of_range {p : Int} (hp : ¬ (0 ≤ p ∧ p ≤ 53)) (s : State) :
    exec (.configureAsOutput p) s = .next (raiseFault .pinRange (.pin p) s) := by
  have hpin : configurablePin p = false := Bool.eq_false_iff.mpr (mt (configurablePin_iff p).mp hp)
  exact congrArg finish (configureAsOutput_out_of_range p s hpin)

/-- The read comes first, so its fault is the whole effect. -/
theorem execConfigureAsOutput_not_mapped (p : Fin 54) {s : State} (hm : s.map ≠ .mapped) :
    exec (.configureAsOutput p.val) s = .next (raiseFault .notMapped (.off (fselOffset p.val)) s) := by
  simp only [exec, execConfigureAsOutput, configureAsOutput, configurablePin_fin, if_true, Int.toNat_natCast,
    readReg_of_not_mapped _ s hm, andThen_raised, finish, resState_raised]

theorem level_configured (p : Fin 54) (s : State) : (configured p s).level p = some (s.out.getLsbD p.val) :=
  level_of_output (pinField_asOutput s.fsel p)

/-- Configuring a configured pin writes back what it reads (R76). -/
theorem configured_configured (p : Fin 54) (s : State) :
    configured p (configured p s) =
      { configured p s with
        trace := (configured p s).trace ++ [.rd (4 * (pinReg p).val) (getFsel (configured p s).fsel (pinReg p)),
          .wr (4 * (pinReg p).val) (getFsel (configured p s).fsel (pinReg p))] } := by
  simp only [configured, asOutput_asOutput]

/-- Settles O21: the end state is `configured p s`, whose register keeps every bit outside the field. -/
theorem configureSetsOutputField : Obligations.ConfigureSetsOutputField := by
  refine ⟨fun p s hm => ?_, fun p s hp => execConfigureAsOutput_out_of_range hp s,
    fun p s hm => execConfigureAsOutput_not_mapped p hm⟩
  refine ⟨pinReg p, _, rfl, execConfigureAsOutput_mapped p hm, pinField_asOutput s.fsel p, fun i hi => ?_,
    getFsel_asOutput_ne s.fsel p, level_configured p s, rfl⟩
  exact (congrArg (BitVec.getLsbD · i) (getFsel_asOutput_same s.fsel p)).trans (getLsbD_withOutputField _ p.val i hi)

/-- Settles O23: from `configured_configured`. -/
theorem configureIsIdempotent : Obligations.ConfigureIsIdempotent := fun p s hm =>
  ⟨pinReg p, _, _, rfl, execConfigureAsOutput_mapped p hm, execConfigureAsOutput_mapped p (s := configured p s) hm,
    configured_configured p s⟩

/-! ## SET and CLEAR (R71, R72, R73) -/

theorem drivablePin_fin (p : Fin 32) : drivablePin p.val = true := (drivablePin_iff p.val).mpr (by omega)

/-- The write of one pin's mask to SET0 sets that pin's bit alone. -/
theorem getLsbD_setBits_driveMask (out : BitVec 54) (p : Fin 32) (q : Nat) :
    (setBits out (driveMask p.val)).getLsbD q = if q = p.val then true else out.getLsbD q := by
  rw [getLsbD_setBits, getLsbD_driveMask p.val q p.isLt]
  split <;> simp [*]

/-- The write of one pin's mask to CLR0 clears that pin's bit alone. -/
theorem getLsbD_clearBits_driveMask (out : BitVec 54) (p : Fin 32) (q : Nat) :
    (clearBits out (driveMask p.val)).getLsbD q = if q = p.val then false else out.getLsbD q := by
  rw [getLsbD_clearBits, getLsbD_driveMask p.val q p.isLt]
  split <;> simp [*]

/-- The state that SET(p) ends in (R71). -/
def drivenHigh (p : Fin 32) (s : State) : State :=
  emit (.wr offSet0 (driveMask p.val)) { s with out := setBits s.out (driveMask p.val) }

/-- The state that CLEAR(p) ends in (R72). -/
def drivenLow (p : Fin 32) (s : State) : State :=
  emit (.wr offClr0 (driveMask p.val)) { s with out := clearBits s.out (driveMask p.val) }

theorem getLsbD_out_drivenHigh (p : Fin 32) (s : State) (q : Nat) :
    (drivenHigh p s).out.getLsbD q = if q = p.val then true else s.out.getLsbD q :=
  getLsbD_setBits_driveMask s.out p q

theorem getLsbD_out_drivenLow (p : Fin 32) (s : State) (q : Nat) :
    (drivenLow p s).out.getLsbD q = if q = p.val then false else s.out.getLsbD q :=
  getLsbD_clearBits_driveMask s.out p q

theorem execSet_mapped (p : Fin 32) {s : State} (hm : s.map = .mapped) :
    exec (.set p.val) s = .next (drivenHigh p s) :=
  congrArg finish (setPin_mapped p.val s (drivablePin_fin p) hm)

theorem execClear_mapped (p : Fin 32) {s : State} (hm : s.map = .mapped) :
    exec (.clear p.val) s = .next (drivenLow p s) :=
  congrArg finish (clearPin_mapped p.val s (drivablePin_fin p) hm)

/-- DrivePinCheck fails before what follows it (R73). -/
theorem drivePin_out_of_range {p : Int} (hp : ¬ (0 ≤ p ∧ p ≤ 31)) (s : State) (k : Unit → State → Res Unit) :
    finish (andThen (drivePinCheck p s) k) = .next (raiseFault .pinRange (.pin p) s) := by
  have hpin : drivablePin p = false := Bool.eq_false_iff.mpr (mt (drivablePin_iff p).mp hp)
  rw [drivePinCheck_raised p s hpin, andThen_raised, finish, resState_raised]

/-- After DrivePinCheck, the write of an unmapped window faults. -/
theorem drivePin_not_mapped (p : Fin 32) (off : Int) (v : Word) {s : State} (hm : s.map ≠ .mapped) :
    finish (andThen (drivePinCheck p.val s) fun _ t => writeWindow off v t) =
      .next (raiseFault .notMapped (.off off) s) := by
  rw [drivePinCheck_ok p.val s (drivablePin_fin p), andThen_done, writeWindow_of_not_mapped off v s hm, finish,
    resState_raised]

/-- Settles O24: the end state is `drivenHigh p s`; the faults are those of the pin check and of the write. -/
theorem setDrivesPinHigh : Obligations.SetDrivesPinHigh :=
  ⟨fun p s hm => ⟨_, execSet_mapped p hm, getLsbD_out_drivenHigh p s, rfl⟩,
   fun _ s hp => drivePin_out_of_range hp s _, fun p _ hm => drivePin_not_mapped p offSet0 _ hm⟩

/-- Settles O25: as O24, with `drivenLow p s`. -/
theorem clearDrivesPinLow : Obligations.ClearDrivesPinLow :=
  ⟨fun p s hm => ⟨_, execClear_mapped p hm, getLsbD_out_drivenLow p s, rfl⟩,
   fun _ s hp => drivePin_out_of_range hp s _, fun p _ hm => drivePin_not_mapped p offClr0 _ hm⟩

/-- Settles O26: SET leaves the window mapped, so CLEAR runs from its end state. -/
theorem setClearNoCrosstalk : Obligations.SetClearNoCrosstalk := by
  intro p s hm
  refine ⟨_, _, execSet_mapped p hm, execClear_mapped p (s := drivenHigh p s) hm, ?_, ?_, fun q hq => ⟨?_, ?_⟩,
    rfl, rfl⟩
  · rw [getLsbD_out_drivenHigh, if_pos rfl]
  · rw [getLsbD_out_drivenLow, if_pos rfl]
  · rw [getLsbD_out_drivenHigh, if_neg hq]
  · rw [getLsbD_out_drivenLow, if_neg hq, getLsbD_out_drivenHigh, if_neg hq]

/-! ## The commands that drive a pin (R74, R88 to R91) -/

theorem actionOf_tokenOf (a : Action) : actionOf (tokenOf a) = some a := (actionOf_eq_some_iff (tokenOf a) a).mpr rfl

/-- A command with an action for a drive pin runs the action's operation, whatever the pin's function. -/
theorem commandEntry_action (a : Action) (p : Fin 32) {s : State} (hm : s.map = .mapped)
    (hfree : executorFree s = true) : commandEntry (.ok p.val (tokenOf a)) s = finish (dispatch a p.val s) := by
  simp only [commandEntry, hm, hfree, interpret, actionOf_tokenOf, drivablePin_fin, ne_eq, not_true, if_false, if_true]

theorem startBlink_of_cycles (p : Fin 32) {d : Int} {s : State} (hq : s.seq = .idle) (hd : cycleCount d ≠ 0) :
    startBlink p.val d s = .done () { s with seq := .blinking p (cycleCount d) .setHigh } := by
  have hseq : ¬ s.seq ≠ .idle := not_not.mpr hq
  simp only [startBlink, if_neg hseq, drivePinCheck_ok p.val s (drivablePin_fin p), andThen_done, if_neg hd,
    Int.toNat_natCast, Fin.ofNat_val_eq_self]

theorem seq_of_executorFree {s : State} (h : executorFree s = true) : s.seq = .idle := by
  simp only [executorFree, Bool.and_eq_true, decide_eq_true_eq] at h
  exact h.1

theorem execCmdOn_free (p : Fin 32) {s : State} (hm : s.map = .mapped) (hfree : executorFree s = true) :
    exec (.cmdOn p.val) s = .next (drivenHigh p s) :=
  (commandEntry_action .on p hm hfree).trans (execSet_mapped p hm)

theorem execCmdOff_free (p : Fin 32) {s : State} (hm : s.map = .mapped) (hfree : executorFree s = true) :
    exec (.cmdOff p.val) s = .next (drivenLow p s) :=
  (commandEntry_action .off p hm hfree).trans (execClear_mapped p hm)

theorem execCmdBlink_free (p : Fin 32) {s : State} (hm : s.map = .mapped) (hfree : executorFree s = true) :
    exec (.cmdBlink p.val) s = .next { s with seq := .blinking p 50 .setHigh } := by
  have hcycles : cycleCount blinkCmdMs ≠ 0 := by decide
  have hstart := startBlink_of_cycles p (seq_of_executorFree hfree) hcycles
  exact (commandEntry_action .blink p hm hfree).trans (congrArg finish hstart)

/-- Configuring a pin as output makes it drive the latched value (R74). -/
theorem exists_configured_level {n : Nat} {q : Fin 54} (hq : q.val = n) {t : State} (hm : t.map = .mapped) :
    ∃ u, exec (.configureAsOutput n) t = .next u ∧ u.level q = some (t.out.getLsbD n) := by
  subst hq
  exact ⟨_, execConfigureAsOutput_mapped q hm, level_configured q t⟩

/-- Settles O27: SET and CLEAR leave every field as it was, so LEVEL stays as the field says until the pin is
configured; the commands end in the states of their operations. -/
theorem driveOfNonOutputPin : Obligations.DriveOfNonOutputPin := by
  intro p q s hq hm
  have hhigh : (drivenHigh p s).out.getLsbD p.val = true := (getLsbD_out_drivenHigh p s p.val).trans (if_pos rfl)
  have hlow : (drivenLow p s).out.getLsbD p.val = false := (getLsbD_out_drivenLow p s p.val).trans (if_pos rfl)
  obtain ⟨u, hu, hlevelu⟩ := exists_configured_level hq (t := drivenHigh p s) hm
  obtain ⟨v, hv, hlevelv⟩ := exists_configured_level hq (t := drivenLow p s) hm
  refine ⟨⟨_, u, execSet_mapped p hm, hhigh, fun hf => level_of_not_output hf, hu, ?_⟩,
    ⟨_, v, execClear_mapped p hm, hlow, fun hf => level_of_not_output hf, hv, ?_⟩, fun hfree =>
    ⟨⟨_, execCmdOn_free p hm hfree, hhigh⟩, ⟨_, execCmdOff_free p hm hfree, hlow⟩,
      ⟨_, execCmdBlink_free p hm hfree, rfl⟩⟩⟩
  · rw [hlevelu, hhigh]
  · rw [hlevelv, hlow]

end Sys2Proof.Machine
end

section
/-!
The turns that the Executor takes (R10, R80, R104; logs 6, 7, 9), and O55.
-/
namespace Sys2Proof.Machine
open Sys2Proof

theorem executorFree_of_busy {s : State} (hq : s.seq ≠ .idle) : executorFree s = false := by
  simp [executorFree, hq]

theorem step_of_no_turn {s : State} (ha : s.agenda = []) : step s = executorMove s := by
  simp only [step, nextMove, ha]

theorem step_of_executor_turn {s : State} {rest : List Turn} (ha : s.agenda = .executor :: rest) :
    step s = executorMove { s with agenda := rest } := by
  simp only [step, nextMove, ha]

theorem step_of_waiting {s : State} {c : Code} {rest : List Turn} (ha : s.agenda = .request c :: rest)
    (hw : waitsForExecutor c = true) (hfree : executorFree s = false) : step s = executorMove s := by
  simp only [step, nextMove, ha, hw, hfree, Bool.not_false, Bool.and_true, if_true]

/-- An Executor with nothing to do leaves the state as it is (log 7). -/
theorem executorMove_of_free {s : State} (hfree : executorFree s = true) : executorMove s = .next s := by
  simp only [executorFree, Bool.and_eq_true, decide_eq_true_eq] at hfree
  obtain ⟨hseq, hheld⟩ := hfree
  simp only [executorMove, hseq, hheld, ne_eq, not_true, if_false]

theorem exists_write_of_readWriteRequest {bs : List Byte} {i : Instr} (h : readWriteRequest bs = some i) :
    ∃ buf ok, i = .write buf ok := by
  obtain ⟨_, -, h⟩ := Option.bind_eq_some_iff.mp h
  obtain ⟨q, -, h⟩ := Option.bind_eq_some_iff.mp h
  obtain ⟨ok, -, rfl⟩ := Option.map_eq_some_iff.mp h
  exact ⟨q.1, ok, rfl⟩

theorem exists_read_of_readReadRequest {bs : List Byte} {i : Instr} (h : readReadRequest bs = some i) :
    ∃ n off ok, i = .read n off ok := by
  obtain ⟨_, -, h⟩ := Option.bind_eq_some_iff.mp h
  obtain ⟨n, -, h⟩ := Option.bind_eq_some_iff.mp h
  obtain ⟨_, -, h⟩ := Option.bind_eq_some_iff.mp h
  obtain ⟨off, -, h⟩ := Option.bind_eq_some_iff.mp h
  obtain ⟨ok, -, rfl⟩ := Option.map_eq_some_iff.mp h
  exact ⟨n.1, off.1, ok, rfl⟩

/-- STARTUP and SHUTDOWN are read from their own text only: every other form answers another request. -/
theorem eq_encodeBytes_of_mem_hostForms {i : Instr} (hi : i = .startup ∨ i = .shutdown) {bs : List Byte}
    {form : List Byte → Option Instr} (hmem : form ∈ hostForms) (hform : form bs = some i) : bs = encodeBytes i := by
  simp only [hostForms, List.mem_cons, List.not_mem_nil, or_false] at hmem
  obtain rfl | rfl | rfl | rfl | rfl | rfl := hmem
  · obtain ⟨-, rfl⟩ := Option.ite_some_none_eq_some.mp hform
    simp at hi
  · obtain ⟨_, _, rfl⟩ := exists_write_of_readWriteRequest hform
    simp at hi
  · obtain ⟨_, _, _, rfl⟩ := exists_read_of_readReadRequest hform
    simp at hi
  · obtain ⟨-, rfl⟩ := Option.ite_some_none_eq_some.mp hform
    simp at hi
  · obtain ⟨hbs, rfl⟩ := Option.ite_some_none_eq_some.mp hform
    exact hbs
  · obtain ⟨hbs, rfl⟩ := Option.ite_some_none_eq_some.mp hform
    exact hbs

theorem decodeHost_lifecycle {i : Instr} (hi : i = .startup ∨ i = .shutdown) (bs : List Byte) :
    decodeHost bs = .ok i ↔ bs = encodeBytes i := by
  constructor
  · intro h
    unfold decodeHost at h
    split at h
    next hfind =>
      cases h
      obtain ⟨form, hmem, hform⟩ := List.exists_of_findSome?_eq_some hfind
      exact eq_encodeBytes_of_mem_hostForms hi hmem hform
    next => cases h
  · rintro rfl
    exact decodeHost_encodeBytes (by obtain rfl | rfl := hi <;> rfl)

theorem waitsForExecutor_iff (c : Code) :
    waitsForExecutor c = true ↔
      c.level = .bus ∨ c.level = .op ∨ decode c = .ok .startup ∨ decode c = .ok .shutdown := by
  obtain ⟨level, bytes⟩ := c
  cases level with
  | bus | op => simp [waitsForExecutor]
  | cmd =>
    have hlevel := (isOperation_decodeCmd bytes).1
    have hstartup : decodeCmd bytes ≠ .startup := fun h => by rw [h] at hlevel; cases hlevel
    have hshutdown : decodeCmd bytes ≠ .shutdown := fun h => by rw [h] at hlevel; cases hlevel
    simp [waitsForExecutor, decode, hstartup, hshutdown]
  | host =>
    have hstartup := decodeHost_lifecycle (.inl rfl) bytes
    have hshutdown := decodeHost_lifecycle (.inr rfl) bytes
    simp [waitsForExecutor, decode, hstartup, hshutdown, encodeBytes]

/-- Settles O55: one lemma per kind of turn. -/
theorem executorTurns : Obligations.ExecutorTurns :=
  ⟨fun _ _ _ => step_of_waiting, waitsForExecutor_iff, fun _ _ => step_of_executor_turn, fun _ => step_of_no_turn,
   fun _ => executorMove_of_free⟩

end Sys2Proof.Machine
end

section
/-!
The Blink Sequencer (42_blink_sequencer.md): BLINK, DELAY, and the state that the step of each phase ends in, with O28,
O29 and O30.
-/
namespace Sys2Proof.Machine
open Sys2Proof

/-! ## BLINK and DELAY (R77, R79, R82) -/

theorem cycleCount_of_pos {d : Int} (hd : 0 < d) : cycleCount d = (d / 100).toNat := if_pos hd

theorem cycleCount_of_lt {d : Int} (hd : d < 100) : cycleCount d = 0 := by
  by_cases hpos : 0 < d
  · rw [cycleCount_of_pos hpos]
    omega
  · exact if_neg hpos

theorem startBlink_of_no_cycles (p : Fin 32) {d : Int} {s : State} (hq : s.seq = .idle) (hd : cycleCount d = 0) :
    startBlink p.val d s = .done () s := by
  simp only [startBlink, hq, ne_eq, not_true, if_false, drivePinCheck_ok p.val s (drivablePin_fin p), andThen_done, hd,
    if_true]

/-- The pin is checked whatever the duration (R77). -/
theorem execBlink_out_of_range {p : Int} (hp : ¬ (0 ≤ p ∧ p ≤ 31)) (d : Int) {s : State} (hq : s.seq = .idle) :
    exec (.blink p d) s = .next (raiseFault .pinRange (.pin p) s) := by
  simp only [exec, execBlink, startBlink, hq, ne_eq, not_true, if_false]
  exact drivePin_out_of_range hp s _

theorem startBlink_busy (p d : Int) {s : State} (hq : s.seq ≠ .idle) :
    startBlink p d s = .raised (raiseFault .busy (.seq s.seq) s) := if_pos hq

/-- Settles O28: a duration of 100 ms or more has a cycle, a shorter one none; the busy check comes before the pin's. -/
theorem blinkStartsSequence : Obligations.BlinkStartsSequence := by
  refine ⟨fun p d s hq hd => ?_, fun p d s hq hd => ?_, fun p d s hq hp => execBlink_out_of_range hp d hq,
    fun p d s hq => congrArg finish (startBlink_busy p d hq)⟩
  · have hcount : cycleCount d = (d / 100).toNat := cycleCount_of_pos (by omega)
    have hcycles : 1 ≤ (d / 100).toNat := by omega
    have hstart := startBlink_of_cycles p hq (d := d) (by omega)
    rw [hcount] at hstart
    exact ⟨congrArg finish hstart, hcycles⟩
  · exact congrArg finish (startBlink_of_no_cycles p hq (cycleCount_of_lt hd))

/-- Settles O29: by the definition of DELAY. -/
theorem delayRecordsEvent : Obligations.DelayRecordsEvent := fun _ _ => rfl

/-! ## The step of each phase (R78) -/

theorem executorMove_blinking {s : State} {p : Fin 32} {r : Nat} {ph : Phase} (hq : s.seq = .blinking p r ph) :
    executorMove s = finish (sequencerStep s) := if_pos (by simp [hq])

theorem executorMove_setHigh {s : State} {p : Fin 32} {r : Nat} (hm : s.map = .mapped)
    (hq : s.seq = .blinking p r .setHigh) :
    executorMove s = .next { drivenHigh p s with seq := .blinking p r .waitHigh } := by
  simp only [executorMove_blinking hq, sequencerStep, hq, writeWindow_set0 _ s hm, abandonOnFault, andThen_done, finish,
    resState_done, drivenHigh]

theorem executorMove_waitHigh {s : State} {p : Fin 32} {r : Nat} (hq : s.seq = .blinking p r .waitHigh) :
    executorMove s = .next { delay 50 s with seq := .blinking p r .setLow } := by
  simp only [executorMove_blinking hq, sequencerStep, hq, finish, resState_done, phaseMs]

theorem executorMove_setLow {s : State} {p : Fin 32} {r : Nat} (hm : s.map = .mapped)
    (hq : s.seq = .blinking p r .setLow) :
    executorMove s = .next { drivenLow p s with seq := .blinking p r .waitLow } := by
  simp only [executorMove_blinking hq, sequencerStep, hq, writeWindow_clr0 _ s hm, abandonOnFault, andThen_done, finish,
    resState_done, drivenLow]

theorem executorMove_waitLow_more {s : State} {p : Fin 32} {r : Nat} (hq : s.seq = .blinking p r .waitLow)
    (hr : r ≠ 1) :
    executorMove s = .next { delay 50 s with seq := .blinking p (r - 1) .setHigh } := by
  simp only [executorMove_blinking hq, sequencerStep, hq, if_neg hr, finish, resState_done, phaseMs]

theorem executorMove_waitLow_last {s : State} {p : Fin 32} (hq : s.seq = .blinking p 1 .waitLow) :
    executorMove s = .next (endBlink (delay 50 s)) := by
  simp only [executorMove_blinking hq, sequencerStep, hq, if_true, finish, resState_done, phaseMs]

/-- A blink that is abandoned at the unmapped offset (log 33). -/
def abandoned (off : Int) (s : State) : State :=
  { raiseFault .notMapped (.off off) s with seq := .idle, writing := none }

theorem executorMove_setHigh_unmapped {s : State} {p : Fin 32} {r : Nat} (hm : s.map ≠ .mapped)
    (hq : s.seq = .blinking p r .setHigh) : executorMove s = .next (abandoned 0x1C s) := by
  simp only [executorMove_blinking hq, sequencerStep, hq, writeWindow_of_not_mapped _ _ s hm, abandonOnFault,
    andThen_raised, finish, resState_raised]
  rfl

theorem executorMove_setLow_unmapped {s : State} {p : Fin 32} {r : Nat} (hm : s.map ≠ .mapped)
    (hq : s.seq = .blinking p r .setLow) : executorMove s = .next (abandoned 0x28 s) := by
  simp only [executorMove_blinking hq, sequencerStep, hq, writeWindow_of_not_mapped _ _ s hm, abandonOnFault,
    andThen_raised, finish, resState_raised]
  rfl

/-- The end of a blink, with or without a WRITE to answer. -/
theorem endBlink_eq (s : State) :
    endBlink s = { s with seq := .idle, writing := none,
                          replies := s.replies ++ (s.writing.map Reply.count).toList } := by
  cases hw : s.writing with
  | none => simp [endBlink, hw]
  | some n => simp [endBlink, hw, reply]

theorem endBlink_of_no_write {s : State} (hw : s.writing = none) : endBlink s = { s with seq := .idle } := by
  simp only [endBlink, hw]

/-- Settles O30: one lemma per phase. -/
theorem sequencerPhases : Obligations.SequencerPhases := fun p _ s =>
  ⟨fun hm hq => ⟨_, executorMove_setHigh hm hq, getLsbD_out_drivenHigh p s, rfl⟩,
   executorMove_waitHigh,
   fun hm hq => ⟨_, executorMove_setLow hm hq, getLsbD_out_drivenLow p s, rfl⟩,
   executorMove_waitLow_more,
   fun hq hw => (executorMove_waitLow_last hq).trans (congrArg _ (endBlink_of_no_write (s := delay 50 s) hw)),
   fun hm hq => ⟨_, executorMove_setHigh_unmapped hm hq, rfl⟩,
   fun hm hq => ⟨_, executorMove_setLow_unmapped hm hq, rfl⟩⟩

/-! ## The end of a step of a blink (R78, R81) -/

@[simp] theorem endBlink_agenda (s : State) : (endBlink s).agenda = s.agenda := by rw [endBlink_eq]

@[simp] theorem endBlink_seq (s : State) : (endBlink s).seq = .idle := by rw [endBlink_eq]

theorem mem_faults_abandoned (off : Int) (s : State) : ⟨.notMapped, .off off⟩ ∈ (abandoned off s).faults := by
  change _ ∈ (raiseFault .notMapped (.off off) s).faults
  rw [raiseFault_faults]
  split
  · assumption
  · exact List.mem_append_right _ (List.mem_singleton_self _)

/-- How an Executor step of a blink ends: in the next phase, or, where the window is not mapped, in the fault of a Set
phase. -/
def Advances (p : Fin 32) (r : Nat) (ph : Phase) (s t : State) : Prop :=
  t.seq = nextPhase p r ph ∨
    (s.map ≠ .mapped ∧ (ph = .setHigh ∨ ph = .setLow) ∧ ∃ off, ⟨.notMapped, .off off⟩ ∈ t.faults)

theorem executorMove_advances {s : State} {p : Fin 32} {r : Nat} {ph : Phase} (hq : s.seq = .blinking p r ph) :
    ∃ t, executorMove s = .next t ∧ Advances p r ph s t ∧ t.agenda = s.agenda := by
  cases ph with
  | setHigh =>
    by_cases hm : s.map = .mapped
    · exact ⟨_, executorMove_setHigh hm hq, .inl rfl, rfl⟩
    · exact ⟨_, executorMove_setHigh_unmapped hm hq, .inr ⟨hm, .inl rfl, _, mem_faults_abandoned _ s⟩, rfl⟩
  | waitHigh => exact ⟨_, executorMove_waitHigh hq, .inl rfl, rfl⟩
  | setLow =>
    by_cases hm : s.map = .mapped
    · exact ⟨_, executorMove_setLow hm hq, .inl rfl, rfl⟩
    · exact ⟨_, executorMove_setLow_unmapped hm hq, .inr ⟨hm, .inr rfl, _, mem_faults_abandoned _ s⟩, rfl⟩
  | waitLow =>
    by_cases hr : r = 1
    · subst hr
      exact ⟨_, executorMove_waitLow_last hq, .inl (endBlink_seq _), endBlink_agenda _⟩
    · exact ⟨_, executorMove_waitLow_more hq hr, .inl (if_neg hr).symm, rfl⟩

theorem advances_of_executorMove {s t : State} {p : Fin 32} {r : Nat} {ph : Phase} (hq : s.seq = .blinking p r ph)
    (h : executorMove s = .next t) : Advances p r ph s t := by
  obtain ⟨u, hu, hadv, -⟩ := executorMove_advances hq
  cases h.symm.trans hu
  exact hadv

end Sys2Proof.Machine
end

section
/-!
A whole blink (R83, R84, R85): the state that its cycles end in, the number of its steps, and the machine's run of it,
with O32.
-/
namespace Sys2Proof.Machine
open Sys2Proof

/-! ## A cycle and a whole blink (R83, R84) -/

theorem executorRun_succ {k : Nat} {s t : State} (h : executorMove s = .next t) :
    executorRun (k + 1) s = executorRun k t := by
  rw [executorRun, h]

/-- Clearing bits undoes setting them. -/
theorem clearBits_setBits (out : BitVec 54) (v : Word) : clearBits (setBits out v) v = clearBits out v := by
  refine BitVec.eq_of_getLsbD_eq fun i _ => ?_
  rw [getLsbD_clearBits, getLsbD_clearBits, getLsbD_setBits]
  cases decide (i < 32) && v.getLsbD i <;> simp

/-- What cycles of a blink do but for the sequencer: the events `es` are appended and pin p is low. -/
def blinked (p : Fin 32) (es : List Event) (s : State) : State :=
  { s with out := clearBits s.out (driveMask p.val), trace := s.trace ++ es }

theorem getLsbD_out_blinked (p : Fin 32) (es : List Event) (s : State) (q : Nat) :
    (blinked p es s).out.getLsbD q = if q = p.val then false else s.out.getLsbD q :=
  getLsbD_clearBits_driveMask s.out p q

theorem blinked_blinked (p : Fin 32) (es es' : List Event) (s : State) :
    blinked p es' (blinked p es s) = blinked p (es ++ es') s := by
  simp only [blinked, clearBits_clearBits, List.append_assoc]

theorem delay_blinked (p : Fin 32) (es : List Event) (s : State) :
    delay 50 (blinked p es s) = blinked p (es ++ [.dly 50]) s := by
  simp only [blinked, delay, emit, List.append_assoc]

theorem drivenLow_delay_drivenHigh (p : Fin 32) (s : State) :
    drivenLow p (delay 50 (drivenHigh p s)) =
      blinked p [.wr 0x1C (driveMask p.val), .dly 50, .wr 0x28 (driveMask p.val)] s := by
  simp only [drivenLow, delay, drivenHigh, emit, clearBits_setBits, blinked, List.append_assoc]
  rfl

/-- The first three phases of a cycle. -/
theorem executorRun_to_waitLow (k : Nat) {s : State} {p : Fin 32} {r : Nat} (hm : s.map = .mapped)
    (hq : s.seq = .blinking p r .setHigh) :
    executorRun (k + 3) s =
      executorRun k { drivenLow p (delay 50 (drivenHigh p s)) with seq := .blinking p r .waitLow } := by
  refine (executorRun_succ (executorMove_setHigh hm hq)).trans ?_
  refine (executorRun_succ (executorMove_waitHigh rfl)).trans ?_
  exact executorRun_succ (executorMove_setLow hm rfl)

/-- The four events of a cycle. -/
theorem delay_cycle (p : Fin 32) (s : State) :
    delay 50 (drivenLow p (delay 50 (drivenHigh p s))) = blinked p (blinkCycle p) s := by
  rw [drivenLow_delay_drivenHigh, delay_blinked]
  rfl

/-- A cycle that is not the last. -/
theorem executorRun_cycle (k : Nat) {s : State} {p : Fin 32} {r : Nat} (hm : s.map = .mapped)
    (hq : s.seq = .blinking p r .setHigh) (hr : r ≠ 1) :
    executorRun (k + 4) s =
      executorRun k { blinked p (blinkCycle p) s with seq := .blinking p (r - 1) .setHigh } := by
  rw [executorRun_to_waitLow (k + 1) hm hq, executorRun_succ (executorMove_waitLow_more rfl hr), ← delay_cycle]
  rfl

theorem executorRun_last_cycle {s : State} {p : Fin 32} (hm : s.map = .mapped) (hq : s.seq = .blinking p 1 .setHigh) :
    executorRun 4 s = .next (endBlink (blinked p (blinkCycle p) s)) := by
  rw [executorRun_to_waitLow 1 hm hq, executorRun_succ (executorMove_waitLow_last rfl), ← delay_cycle]
  rfl

/-- The end of a blink does not look at the phase it ends. -/
theorem endBlink_blinked_seq (p : Fin 32) (es : List Event) (s : State) (q : SeqState) :
    endBlink (blinked p es { s with seq := q }) = endBlink (blinked p es s) := by
  simp only [endBlink_eq, blinked]

/-- A blink of c + 1 cycles, by induction on the cycles before the last. -/
theorem executorRun_blink (p : Fin 32) (c : Nat) {s : State} (hm : s.map = .mapped)
    (hq : s.seq = .blinking p (c + 1) .setHigh) :
    executorRun (4 * (c + 1)) s = .next (endBlink (blinked p (blinkEvents p (c + 1)) s)) := by
  induction c generalizing s with
  | zero => exact executorRun_last_cycle hm hq
  | succ c ih =>
    have hrest := ih (s := { blinked p (blinkCycle p) s with seq := .blinking p (c + 1) .setHigh }) hm rfl
    rw [endBlink_blinked_seq, blinked_blinked] at hrest
    exact (executorRun_cycle _ hm hq (by omega)).trans hrest

/-! ## The steps a blink has left (R83, R85) -/

/-- The Executor steps until a blink has ended. -/
def stepsLeft : SeqState → Nat
  | .idle => 0
  | .blinking _ r .setHigh => 4 * r
  | .blinking _ r .waitHigh => 4 * r - 1
  | .blinking _ r .setLow => 4 * r - 2
  | .blinking _ r .waitLow => 4 * r - 3

theorem exists_blinking_of_stepsLeft {q : SeqState} (h : 0 < stepsLeft q) :
    ∃ p r ph, q = .blinking p r ph ∧ 1 ≤ r := by
  cases q with
  | idle => exact absurd h (Nat.lt_irrefl 0)
  | blinking p r ph => refine ⟨p, r, ph, rfl, ?_⟩; cases ph <;> simp only [stepsLeft] at h <;> omega

theorem stepsLeft_nextPhase (p : Fin 32) {r : Nat} (hr : 1 ≤ r) (ph : Phase) :
    stepsLeft (nextPhase p r ph) + 1 = stepsLeft (.blinking p r ph) := by
  cases ph with
  | waitLow =>
    by_cases hlast : r = 1
    · simp [nextPhase, hlast, stepsLeft]
    · simp only [nextPhase, if_neg hlast, stepsLeft]
      omega
  | setHigh | waitHigh | setLow => simp only [nextPhase, stepsLeft]; omega

theorem executorMove_takes_step {s : State} (hm : s.map = .mapped) (h : 0 < stepsLeft s.seq) :
    ∃ t, executorMove s = .next t ∧ t.map = .mapped ∧ stepsLeft t.seq + 1 = stepsLeft s.seq ∧ t.agenda = s.agenda := by
  obtain ⟨p, r, ph, hq, hr⟩ := exists_blinking_of_stepsLeft h
  obtain ⟨t, ht, hadv, hagenda⟩ := executorMove_advances hq
  have hseq : t.seq = nextPhase p r ph := hadv.resolve_right fun hfault => hfault.1 hm
  exact ⟨t, ht, (executorMove_map s t ht).trans hm, by rw [hseq, hq, stepsLeft_nextPhase p hr ph], hagenda⟩

/-- Each step takes one off the steps left, so a blink runs until none is left. -/
theorem executorRun_stepsLeft (k : Nat) {s : State} (hm : s.map = .mapped) (hk : k ≤ stepsLeft s.seq) :
    ∃ u, executorRun k s = .next u ∧ stepsLeft u.seq = stepsLeft s.seq - k := by
  induction k generalizing s with
  | zero => exact ⟨s, rfl, rfl⟩
  | succ k ih =>
    obtain ⟨t, ht, hmt, hleft, -⟩ := executorMove_takes_step hm (by omega)
    obtain ⟨u, hu, hleftu⟩ := ih hmt (by omega)
    exact ⟨u, (executorRun_succ ht).trans hu, by omega⟩

/-! ## The machine's run of a blink -/

/-- The agenda leaves a busy Executor its own steps: no turn is left, or the next request waits (log 9). -/
def LeavesTurn (a : List Turn) : Prop :=
  a = [] ∨ ∃ code rest, a = .request code :: rest ∧ waitsForExecutor code = true

theorem step_of_leavesTurn {s : State} (ha : LeavesTurn s.agenda) (hq : s.seq ≠ .idle) : step s = executorMove s := by
  obtain hnone | ⟨code, rest, hrequest, hw⟩ := ha
  · exact step_of_no_turn hnone
  · exact step_of_waiting hrequest hw (executorFree_of_busy hq)

theorem coreRun_succ {k : Nat} {s t : State} (h : step s = .next t) :
    Host.Core.run Sys2Proof.core (k + 1) s = Host.Core.run Sys2Proof.core k t := by
  have hcore : Sys2Proof.core.step s = .next t := h
  simp only [Host.Core.run, hcore]

/-- While a blink has steps left, the machine's run is the Executor's. -/
theorem coreRun_eq_executorRun (k : Nat) {s : State} (hm : s.map = .mapped) (ha : LeavesTurn s.agenda)
    (hk : k ≤ stepsLeft s.seq) : Host.Core.run Sys2Proof.core k s = executorRun k s := by
  induction k generalizing s with
  | zero => rfl
  | succ k ih =>
    have hbusy : s.seq ≠ .idle := by
      rintro hidle
      rw [hidle] at hk
      exact absurd hk (Nat.not_succ_le_zero k)
    obtain ⟨t, ht, hmt, hleft, hagenda⟩ := executorMove_takes_step hm (by omega)
    rw [coreRun_succ ((step_of_leavesTurn ha hbusy).trans ht), executorRun_succ ht]
    exact ih hmt (hagenda ▸ ha) (by omega)

/-- Settles O32: `executorRun_blink` for the end state, `stepsLeft` for the number of the steps. -/
theorem blinkRunsToCompletion : Obligations.BlinkRunsToCompletion := by
  intro p c s hc hm hq
  have hleft : stepsLeft s.seq = 4 * c := by rw [hq, stepsLeft]
  obtain ⟨c, rfl⟩ := Nat.exists_eq_add_one.mpr hc
  refine ⟨⟨_, executorRun_blink p c hm hq, ?_⟩, fun k hk => ?_, fun ha k hk =>
    coreRun_eq_executorRun k hm ha (hleft ▸ hk)⟩
  · rw [endBlink_eq]
    exact ⟨rfl, getLsbD_out_blinked p (blinkEvents p (c + 1)) s, rfl⟩
  · obtain ⟨u, hu, hleftu⟩ := executorRun_stepsLeft k hm (hleft ▸ hk.le)
    refine ⟨u, hu, fun hidle => ?_⟩
    rw [hidle, stepsLeft] at hleftu
    omega

end Sys2Proof.Machine
end

section
/-!
What leaves the sequencer alone while a blink runs (R81): every operation, every answer to a request that is no
operation, and the Executor's own step but for the advance of the phase, with O33.
-/
namespace Sys2Proof.Machine
open Sys2Proof

/-! ## The shared operations -/

/-- What an operation keeps, whatever it ends in, the operation after it may use. -/
theorem andThen_keeps {α β : Type} {P : State → Prop} {r : Res α} {k : α → State → Res β} (hr : P (resState r))
    (hk : ∀ a t, P t → P (resState (k a t))) : P (resState (andThen r k)) := by
  cases r with
  | done a t => exact hk a t hr
  | raised t => exact hr

@[simp] theorem readReg_seq (off : Int) (s : State) : (resState (readReg off s)).seq = s.seq := by
  obtain ⟨n, _, _, h⟩ | ⟨code, _, h⟩ := readReg_cases off s <;> simp [h]

@[simp] theorem writeWindow_seq (off : Int) (v : Word) (s : State) : (resState (writeWindow off v s)).seq = s.seq := by
  obtain ⟨r, _, _, h⟩ | ⟨code, _, h⟩ := writeWindow_cases off v s <;> simp [h]

@[simp] theorem drivePinCheck_seq (p : Int) (s : State) : (resState (drivePinCheck p s)).seq = s.seq := by
  unfold drivePinCheck
  split <;> rfl

@[simp] theorem setPin_seq (p : Int) (s : State) : (resState (setPin p s)).seq = s.seq :=
  andThen_keeps (P := (·.seq = s.seq)) (drivePinCheck_seq p s) fun _ t ht => (writeWindow_seq _ _ t).trans ht

@[simp] theorem clearPin_seq (p : Int) (s : State) : (resState (clearPin p s)).seq = s.seq :=
  andThen_keeps (P := (·.seq = s.seq)) (drivePinCheck_seq p s) fun _ t ht => (writeWindow_seq _ _ t).trans ht

@[simp] theorem configureAsOutput_seq (p : Int) (s : State) : (resState (configureAsOutput p s)).seq = s.seq := by
  unfold configureAsOutput
  split
  · exact andThen_keeps (P := (·.seq = s.seq)) (readReg_seq _ s) fun _ t ht => (writeWindow_seq _ _ t).trans ht
  · rfl

theorem forEachPin_seq {op : Int → State → Res Unit} (hop : ∀ p s, (resState (op p s)).seq = s.seq)
    (qs : List (Fin 32)) (s : State) : (resState (forEachPin op qs s)).seq = s.seq := by
  induction qs generalizing s with
  | nil => rfl
  | cons q qs ih => exact andThen_keeps (P := (·.seq = s.seq)) (hop _ s) fun _ t ht => (ih t).trans ht

@[simp] theorem mapWindow_seq (s : State) : (resState (mapWindow s)).seq = s.seq := by
  obtain ⟨_, h⟩ | ⟨base, _, h⟩ | ⟨reason, _, h⟩ := mapWindow_cases s <;> rw [h] <;> rfl

@[simp] theorem unmapWindow_seq (s : State) : (resState (unmapWindow s)).seq = s.seq := by
  unfold unmapWindow
  split
  · rfl
  · split <;> rfl

/-! ## The operations and the answers -/

/-- Where the outcome is a next state, its sequencer is `q`. -/
def LeavesSeq (q : SeqState) (o : Host.Outcome State Fault Refusal) : Prop := ∀ t, o = .next t → t.seq = q

theorem LeavesSeq.next {q : SeqState} {t : State} (h : t.seq = q) : LeavesSeq q (.next t) := by
  rintro _ ⟨⟩
  exact h

theorem LeavesSeq.refused (q : SeqState) (r : Refusal) : LeavesSeq q (.refused r) := nofun

theorem LeavesSeq.ite {q : SeqState} {c : Prop} [Decidable c] {o o' : Host.Outcome State Fault Refusal}
    (h : LeavesSeq q o) (h' : LeavesSeq q o') : LeavesSeq q (if c then o else o') := by
  split
  · exact h
  · exact h'

theorem finishRead_leavesSeq (off : Int) (s : State) : LeavesSeq s.seq (finishRead (readReg off s)) := by
  have hr := readReg_seq off s
  cases hx : readReg off s <;> rw [hx] at hr <;> exact .next hr

theorem finish_writeWindow_leavesSeq (off : Int) (v : Word) (s : State) :
    LeavesSeq s.seq (finish (writeWindow off v s)) := .next (writeWindow_seq off v s)

theorem execMap_leavesSeq (s : State) : LeavesSeq s.seq (execMap s) := by
  have hm := mapWindow_seq s
  unfold execMap
  split <;> rename_i hr <;> rw [hr] at hm <;> exact .next hm

theorem execStartup_leavesSeq (s : State) : LeavesSeq s.seq (execStartup s) := by
  have hm := mapWindow_seq s
  unfold execStartup
  split <;> rename_i hr <;> rw [hr] at hm
  · exact .next hm
  · exact .next hm
  · rename_i t
    have hf := (forEachPin_seq configureAsOutput_seq t.params.ledPins.list t).trans hm
    split <;> rename_i hr' <;> rw [hr'] at hf <;> exact .next hf

theorem execShutdown_leavesSeq (s : State) : LeavesSeq s.seq (execShutdown s) := by
  have hc := andThen_keeps (P := (·.seq = s.seq)) (k := fun _ t => unmapWindow t)
    (forEachPin_seq clearPin_seq s.params.ledPins.list s) fun _ t ht => (unmapWindow_seq t).trans ht
  refine .ite (.next rfl) (.ite ?_ (.refused _ _))
  split <;> rename_i hr <;> rw [hr] at hc <;> exact .next hc

theorem execRead_leavesSeq (n : Nat) (off : Int) (ok : Bool) (s : State) : LeavesSeq s.seq (execRead n off ok s) :=
  .ite (.refused _ _) (.ite (.refused _ _) (.ite (.next rfl) (.ite (.next rfl) (.next rfl))))

/-- A command is held while a blink runs (R104). -/
theorem commandEntry_leavesSeq (r : Parsed) {s : State} (hq : s.seq ≠ .idle) : LeavesSeq s.seq (commandEntry r s) := by
  simp only [commandEntry, executorFree_of_busy hq, Bool.false_eq_true, if_false]
  exact .ite (.refused _ _) (.next rfl)

/-- A WRITE is held while a blink runs (R104). -/
theorem execWrite_leavesSeq (buf : List Byte) (ok : Bool) {s : State} (hq : s.seq ≠ .idle) :
    LeavesSeq s.seq (execWrite buf ok s) := by
  simp only [execWrite, executorFree_of_busy hq, Bool.false_eq_true, if_false]
  exact .ite (.refused _ _) (.next rfl)

/-- While a blink runs, no operation changes the sequencer: BLINK is turned away, WRITE and the commands are held, and
the others never touch it. -/
theorem exec_leavesSeq (i : Instr) {s : State} (hq : s.seq ≠ .idle) : LeavesSeq s.seq (exec i s) := by
  cases i with
  | busRdFsel0 | busRdFsel1 | busRdFsel2 | busRdFsel3 | busRdFsel4 | busRdFsel5 | readWord =>
    exact finishRead_leavesSeq _ s
  | busWrFsel0 | busWrFsel1 | busWrFsel2 | busWrFsel3 | busWrFsel4 | busWrFsel5 | busWrSet0 | busWrClr0 | writeWord =>
    exact finish_writeWindow_leavesSeq _ _ s
  | map => exact execMap_leavesSeq s
  | unmap => exact .next (unmapWindow_seq s)
  | configureAsOutput p => exact .next (configureAsOutput_seq p s)
  | set p => exact .next (setPin_seq p s)
  | clear p => exact .next (clearPin_seq p s)
  | blink p d => exact .next (congrArg (fun r => (resState r).seq) (startBlink_busy p d hq))
  | delay ms => exact .next rfl
  | cmdOn | cmdOff | cmdBlink | cmdUnknown | cmdMalformed => exact commandEntry_leavesSeq _ hq
  | openChannel | closeChannel => exact .ite (.refused _ _) (.next rfl)
  | write buf ok => exact execWrite_leavesSeq buf ok hq
  | read n off ok => exact execRead_leavesSeq n off ok s
  | startup => exact execStartup_leavesSeq s
  | shutdown => exact execShutdown_leavesSeq s

theorem rejectRequest_leavesSeq (e : DecodeError) (s : State) : LeavesSeq s.seq (rejectRequest e s) := by
  cases e with
  | busNoRow isWrite off data => exact .ite (finish_writeWindow_leavesSeq _ _ s) (finishRead_leavesSeq _ s)
  | busWidth | noSuchOperation | noSuchRequest => exact .refused _ _

/-! ## The step of a blink (R81) -/

/-- Settles O33: a step is an operation or an answer, which leave the sequencer, or the Executor's own, which advances
it. -/
theorem blinkIsNeverCancelled : Obligations.BlinkIsNeverCancelled := by
  intro p r ph s t hq
  have hbusy : s.seq ≠ .idle := by simp [hq]
  refine ⟨fun i h => exec_leavesSeq i hbusy t h, fun h => ?_⟩
  obtain h | ⟨rest, -, h⟩ | ⟨_, rest, i, -, -, -, -, h⟩ | ⟨_, rest, e, -, -, h⟩ := step_cases s t h
  · exact .inr (advances_of_executorMove hq h)
  · exact .inr (advances_of_executorMove (s := { s with agenda := rest }) hq h)
  · exact .inl (exec_leavesSeq i (s := { s with agenda := rest }) hbusy t h)
  · exact .inl (rejectRequest_leavesSeq e { s with agenda := rest } t h)

end Sys2Proof.Machine
end

section
/-!
The command port (43_command_port.md): what a free Executor does with a command, the errors it records, and that nothing
is offered outside the mapped lifetime; with O37, O38 and O45.
-/
namespace Sys2Proof.Machine
open Sys2Proof

/-! ## A command at the Executor (R88, R97) -/

/-- A free Executor interprets a command at once (log 10). -/
theorem commandEntry_of_free (r : Parsed) {s : State} (hm : s.map = .mapped) (hfree : executorFree s = true) :
    commandEntry r s = finish (interpret r s) := by
  rw [commandEntry, if_neg (not_not.mpr hm), if_pos hfree]

/-- Outside the mapped lifetime a command has no move (R97; log 10). -/
theorem commandEntry_of_not_mapped (r : Parsed) {s : State} (hm : s.map ≠ .mapped) :
    commandEntry r s = .refused .channelNotOffered := if_pos hm

/-- Settles O45: each request of the channel asks first for the mapped window, and so does each command
(`commandEntry_of_not_mapped`). -/
theorem channelRefusals : Obligations.ChannelRefusals := fun _ hm =>
  ⟨if_pos hm, if_pos hm, fun _ _ => if_pos hm, fun _ _ _ => if_pos hm,
   fun _ => ⟨commandEntry_of_not_mapped _ hm, commandEntry_of_not_mapped _ hm, commandEntry_of_not_mapped _ hm,
     fun _ => commandEntry_of_not_mapped _ hm⟩,
   commandEntry_of_not_mapped _ hm⟩

/-- Settles O37: the end states of SET, CLEAR and BLINK, each of which keeps every field it does not name. -/
theorem commandsDriveAndBlink : Obligations.CommandsDriveAndBlink := fun p s hm hfree =>
  ⟨⟨drivenHigh p s, execCmdOn_free p hm hfree, getLsbD_out_drivenHigh p s, rfl⟩,
   ⟨drivenLow p s, execCmdOff_free p hm hfree, getLsbD_out_drivenLow p s, rfl⟩,
   execCmdBlink_free p hm hfree⟩

/-! ## Errors (R92 to R95) -/

/-- A message that fits in ERR_CAP is recorded whole, and nothing else changes (R95). -/
theorem recordError_of_fits {msg : List Byte} (h : msg.length ≤ errCap) (s : State) :
    recordError msg s = { s with lastErr := msg, trace := s.trace ++ [.err msg] } := by
  rw [recordError, List.take_of_length_le h, emit]

/-- The message of an unknown action fits in ERR_CAP, since a token has at most TOKEN_MAX bytes. -/
theorem length_actionMessage_le {T : List Byte} (h : T.length ≤ tokenMax) : (actionMessage T).length ≤ errCap := by
  have hprefix : (actionMessage T).length = 16 + T.length := List.length_append
  simp only [tokenMax] at h
  simp only [errCap]
  omega

theorem interpret_of_no_action (p : Int) {T : List Byte} (h : actionOf T = none) (s : State) :
    interpret (.ok p T) s = .done () (recordError (actionMessage T) s) := by
  simp only [interpret, h]

theorem interpret_out_of_range (a : Action) {p : Int} (hp : ¬ (0 ≤ p ∧ p ≤ 31)) (s : State) :
    interpret (.ok p (tokenOf a)) s = .done () (recordError pinMessage s) := by
  simp only [interpret, actionOf_tokenOf, drivablePin_iff, if_neg hp]

/-- A command whose interpretation is an error records its message whole and changes nothing else. -/
theorem commandEntry_of_error {r : Parsed} {msg : List Byte} {s : State} (hm : s.map = .mapped)
    (hfree : executorFree s = true) (hr : interpret r s = .done () (recordError msg s))
    (hfits : msg.length ≤ errCap) :
    commandEntry r s = .next { s with lastErr := msg, trace := s.trace ++ [.err msg] } := by
  rw [commandEntry_of_free r hm hfree, hr, finish, resState_done, recordError_of_fits hfits]

/-- Settles O38: the three messages fit in ERR_CAP, so `commandEntry_of_error` gives each case. -/
theorem commandErrorsAreRecorded : Obligations.CommandErrorsAreRecorded := by
  refine ⟨by decide, fun _ => rfl, by decide, fun s hm hfree => ⟨?_, fun p T hT => ?_, fun p hp => ?_⟩⟩
  · exact commandEntry_of_error hm hfree rfl (by decide)
  · obtain ⟨⟨_, hlen, _⟩, hnone⟩ := (unknownToken_iff T).mp hT
    exact commandEntry_of_error hm hfree (interpret_of_no_action p hnone s) (length_actionMessage_le hlen)
  · have hpin (a : Action) : commandEntry (.ok p (tokenOf a)) s =
        .next { s with lastErr := pinMessage, trace := s.trace ++ [.err pinMessage] } :=
      commandEntry_of_error hm hfree (interpret_out_of_range a hp s) (by decide)
    exact ⟨hpin .on, hpin .off, hpin .blink⟩

end Sys2Proof.Machine
end

section
/-!
The Command Channel (44_host_channel.md): what a free and what a busy Executor does with a WRITE, the taking up of what
was held, and READ, OPEN and CLOSE; with O39, O40, O41, O42, O43 and O44.
-/
namespace Sys2Proof.Machine
open Sys2Proof

/-! ## A command interpreted while no blink runs (R88, R94) -/

/-- A command with an action for a drive pin is the action's operation (R88). -/
theorem interpret_action (a : Action) (p : Fin 32) (s : State) :
    interpret (.ok p.val (tokenOf a)) s = dispatch a p.val s := by
  simp only [interpret, actionOf_tokenOf, drivablePin_fin, if_true]

/-- The operation of an action for a drive pin raises no fault, answers no caller, and neither depends on what is held
nor changes it. -/
theorem dispatch_done_indep_held (a : Action) (p : Fin 32) {s : State} (hm : s.map = .mapped) (hq : s.seq = .idle) :
    ∃ t : State, t.replies = s.replies ∧
      ∀ q, dispatch a p.val { s with held := q } = .done () { t with held := q } := by
  cases a with
  | on => exact ⟨drivenHigh p s, rfl, fun _ => setPin_mapped p.val _ (drivablePin_fin p) hm⟩
  | off => exact ⟨drivenLow p s, rfl, fun _ => clearPin_mapped p.val _ (drivablePin_fin p) hm⟩
  | blink =>
    have hcycles : cycleCount blinkCmdMs ≠ 0 := by decide
    exact ⟨{ s with seq := .blinking p (cycleCount blinkCmdMs) .setHigh }, rfl,
      fun _ => startBlink_of_cycles p hq hcycles⟩

/-- The same of a whole command: errors are recorded, and the pin is checked before the action's operation (R94). -/
theorem interpret_done_indep_held (r : Parsed) {s : State} (hm : s.map = .mapped) (hq : s.seq = .idle) :
    ∃ t : State, t.replies = s.replies ∧
      ∀ q, interpret r { s with held := q } = .done () { t with held := q } := by
  cases r with
  | malformed => exact ⟨recordError formatMessage s, rfl, fun _ => rfl⟩
  | ok p T =>
    cases hact : actionOf T with
    | none => exact ⟨recordError (actionMessage T) s, rfl, fun _ => interpret_of_no_action p hact _⟩
    | some a =>
      obtain rfl := (actionOf_eq_some_iff T a).mp hact
      by_cases hp : 0 ≤ p ∧ p ≤ 31
      · obtain ⟨pin, rfl⟩ : ∃ pin : Fin 32, p = pin.val :=
          ⟨⟨p.toNat, by omega⟩, (Int.toNat_of_nonneg hp.1).symm⟩
        simpa only [interpret_action] using dispatch_done_indep_held a pin hm hq
      · exact ⟨recordError pinMessage s, rfl, fun _ => interpret_out_of_range a hp _⟩

/-! ## A WRITE or a command at the Executor (R99, R103, R104) -/

/-- The command row of a parsed text is that text at the Executor (R60). -/
theorem exec_commandOf (r : Parsed) (s : State) : exec (commandOf r) s = commandEntry r s := by
  cases r with
  | malformed => rfl
  | ok p T =>
    cases hact : actionOf T with
    | none => simp only [commandOf, hact, exec, execCmdUnknown]
    | some a =>
      obtain rfl := (actionOf_eq_some_iff T a).mp hact
      cases a <;> rfl

theorem executorFree_of_idle {s : State} (hq : s.seq = .idle) (hh : s.held = []) : executorFree s = true := by
  simp only [executorFree, hq, hh, decide_true, Bool.and_self]

theorem execWrite_free (buf : List Byte) (ok : Bool) {s : State} (hm : s.map = .mapped)
    (hfree : executorFree s = true) : exec (.write buf ok) s = .next (runWrite buf ok s) :=
  (if_neg (not_not.mpr hm)).trans (if_pos hfree)

theorem execWrite_busy (buf : List Byte) (ok : Bool) {s : State} (hm : s.map = .mapped)
    (hbusy : executorFree s = false) : exec (.write buf ok) s = .next (hold (.write buf ok) s) :=
  (if_neg (not_not.mpr hm)).trans (if_neg (Bool.eq_false_iff.mp hbusy))

theorem commandEntry_of_busy (r : Parsed) {s : State} (hm : s.map = .mapped) (hbusy : executorFree s = false) :
    commandEntry r s = .next (hold (.command r) s) :=
  (if_neg (not_not.mpr hm)).trans (if_neg (Bool.eq_false_iff.mp hbusy))

/-- A WRITE whose command ends without a fault returns its count, or leaves it to the end of the blink (R86, R99). -/
theorem runWrite_of_interpret {buf : List Byte} {s t : State}
    (h : interpret (parse (effectiveText buf)) s = .done () t) :
    runWrite buf true s =
      if t.seq = .idle then reply (.count buf.length) t else { t with writing := some buf.length } := by
  simp only [runWrite, if_true, h]

/-- Settles O39: the WRITE and the command row run one interpretation, which answers no caller itself. -/
theorem writeRunsItsCommand : Obligations.WriteRunsItsCommand := by
  intro buf s hm hfree
  obtain ⟨t, hreplies, ht⟩ := interpret_done_indep_held (parse (effectiveText buf)) hm (seq_of_executorFree hfree)
  have hrun : interpret (parse (effectiveText buf)) s = .done () { t with held := s.held } := ht s.held
  have hwrite := (execWrite_free buf true hm hfree).trans (congrArg _ (runWrite_of_interpret hrun))
  refine ⟨{ t with held := s.held }, ?_, fun hidle => ?_, fun hblink => ?_, hreplies⟩
  · rw [decodeCmd, exec_commandOf, commandEntry_of_free _ hm hfree, hrun, finish, resState_done]
  · rw [hwrite, if_pos hidle, reply, hreplies]
  · rw [hwrite, if_neg hblink]

/-- Settles O41: a WRITE and every command ask first for the mapped window, then for a free Executor. -/
theorem busyExecutorHoldsWrites : Obligations.BusyExecutorHoldsWrites := fun _ hm hbusy =>
  ⟨fun buf ok => execWrite_busy buf ok hm hbusy, fun _ => commandEntry_of_busy _ hm hbusy,
   fun _ => commandEntry_of_busy _ hm hbusy, fun _ => commandEntry_of_busy _ hm hbusy,
   fun _ _ => commandEntry_of_busy _ hm hbusy, commandEntry_of_busy _ hm hbusy⟩

/-! ## The Executor takes up what was held (R104) -/

theorem executorMove_of_held {s : State} {h : Held} {rest : List Held} (hq : s.seq = .idle) (hh : s.held = h :: rest) :
    executorMove s = runHeld h { s with held := rest } := by
  rw [executorMove, if_neg (not_not.mpr hq), hh]

/-- A free Executor does with an operation what it does when it takes it up from the held ones. -/
theorem exec_heldInstr_of_free (h : Held) {s : State} (hm : s.map = .mapped) (hfree : executorFree s = true) :
    exec (heldInstr h) s = runHeld h s := by
  have hoffered : ¬ s.map ≠ .mapped := not_not.mpr hm
  cases h with
  | write buf ok => exact (execWrite_free buf ok hm hfree).trans (if_neg hoffered).symm
  | command r =>
    exact ((exec_commandOf r s).trans (commandEntry_of_free r hm hfree)).trans (if_neg hoffered).symm

theorem runWrite_indep_held (buf : List Byte) (ok : Bool) {s : State} (hm : s.map = .mapped) (hq : s.seq = .idle) :
    ∃ t : State, ∀ q, runWrite buf ok { s with held := q } = { t with held := q } := by
  cases ok with
  | false => exact ⟨reply (.error .eCopyIn none) s, fun _ => rfl⟩
  | true =>
    obtain ⟨t, -, ht⟩ := interpret_done_indep_held (parse (effectiveText buf)) hm hq
    by_cases hidle : t.seq = .idle
    · exact ⟨reply (.count buf.length) t, fun q => (runWrite_of_interpret (ht q)).trans (if_pos hidle)⟩
    · exact ⟨{ t with writing := some buf.length }, fun q => (runWrite_of_interpret (ht q)).trans (if_neg hidle)⟩

/-- What is taken up neither depends on what else is held nor changes it. -/
theorem runHeld_indep_held (h : Held) {s : State} (hm : s.map = .mapped) (hq : s.seq = .idle) :
    ∃ t : State, ∀ q, runHeld h { s with held := q } = .next { t with held := q } := by
  have hoffered : ¬ s.map ≠ .mapped := not_not.mpr hm
  cases h with
  | write buf ok =>
    obtain ⟨t, ht⟩ := runWrite_indep_held buf ok hm hq
    exact ⟨t, fun q => (if_neg hoffered).trans (congrArg _ (ht q))⟩
  | command r =>
    obtain ⟨t, -, ht⟩ := interpret_done_indep_held r hm hq
    exact ⟨t, fun q => (if_neg hoffered).trans (congrArg finish (ht q))⟩

/-- Settles O42: the operation run with nothing held and the Executor's step are one `runHeld`, with
other lists held. -/
theorem heldWriteRunsOldestFirst : Obligations.HeldWriteRunsOldestFirst := by
  intro h rest s hm hq hh
  obtain ⟨t, ht⟩ := runHeld_indep_held h hm hq
  have hnone := exec_heldInstr_of_free h (s := { s with held := [] }) hm (executorFree_of_idle hq rfl)
  exact ⟨{ t with held := [] }, hnone.trans (ht []), rfl, (executorMove_of_held hq hh).trans (ht rest)⟩

/-! ## READ, OPEN and CLOSE (R98, R100, R101, R103) -/

theorem length_readSlice (text : List Byte) (maxLen off : Nat) :
    (readSlice text maxLen off).length = min maxLen (text.length - off) := by
  rw [readSlice, List.length_take, List.length_drop]

theorem getElem?_readSlice {text : List Byte} {maxLen off i : Nat} (h : i < maxLen) :
    (readSlice text maxLen off)[i]? = text[off + i]? := by
  rw [readSlice, List.getElem?_take_of_lt h, List.getElem?_drop]

/-- A slice without a byte is empty. -/
theorem readSlice_eq_nil {text : List Byte} {maxLen off : Nat} (h : text.length ≤ off ∨ maxLen = 0) :
    readSlice text maxLen off = [] := by
  have hlength := length_readSlice text maxLen off
  exact List.eq_nil_of_length_eq_zero (by omega)

theorem execRead_of_negative (n : Nat) {off : Int} (ok : Bool) {s : State} (hm : s.map = .mapped) (hoff : off < 0) :
    exec (.read n off ok) s = .refused .negativeOffset :=
  (if_neg (not_not.mpr hm)).trans (if_pos hoff)

/-- A READ in the mapped lifetime at an offset that is no negative one. -/
theorem execRead_mapped (maxLen off : Nat) (ok : Bool) {s : State} (hm : s.map = .mapped) :
    exec (.read maxLen off ok) s =
      if s.lastErr.length ≤ off ∨ maxLen = 0 then .next (reply (.bytes []) s)
      else if ok then .next (reply (.bytes (readSlice s.lastErr maxLen off)) s)
      else .next (reply (.error .eCopyOut none) s) :=
  (if_neg (not_not.mpr hm)).trans (if_neg (by omega))

theorem execRead_of_no_byte {maxLen off : Nat} (ok : Bool) {s : State} (hm : s.map = .mapped)
    (h : s.lastErr.length ≤ off ∨ maxLen = 0) : exec (.read maxLen off ok) s = .next (reply (.bytes []) s) :=
  (execRead_mapped maxLen off ok hm).trans (if_pos h)

/-- A READ whose copy succeeds gives back the slice, an empty one too. -/
theorem execRead_of_copied (maxLen off : Nat) {s : State} (hm : s.map = .mapped) :
    exec (.read maxLen off true) s = .next (reply (.bytes (readSlice s.lastErr maxLen off)) s) := by
  by_cases h : s.lastErr.length ≤ off ∨ maxLen = 0
  · rw [execRead_of_no_byte true hm h, readSlice_eq_nil h]
  · rw [execRead_mapped maxLen off true hm, if_neg h, if_pos rfl]

theorem execRead_of_copy_fault {maxLen off : Nat} {s : State} (hm : s.map = .mapped) (hoff : off < s.lastErr.length)
    (hlen : maxLen ≠ 0) : exec (.read maxLen off false) s = .next (reply (.error .eCopyOut none) s) := by
  have hbyte : ¬ (s.lastErr.length ≤ off ∨ maxLen = 0) := by omega
  rw [execRead_mapped maxLen off false hm, if_neg hbyte, if_neg Bool.false_ne_true]

/-- Settles O43: the bytes are those of `readSlice`; the refusals come before it. -/
theorem readReturnsLastErrorSlice : Obligations.ReadReturnsLastErrorSlice := by
  refine ⟨fun n off ok s => ⟨fun hm => if_pos hm, fun hm hoff => execRead_of_negative n ok hm hoff⟩,
    fun maxLen off s hm => ⟨?_, fun ok h => execRead_of_no_byte ok hm h,
      fun hoff hlen => execRead_of_copy_fault hm hoff hlen⟩⟩
  refine ⟨_, execRead_of_copied maxLen off hm, length_readSlice s.lastErr maxLen off, fun i hi => ?_⟩
  rw [length_readSlice] at hi
  exact getElem?_readSlice (by omega)

/-- Settles O40: a WRITE's copy comes before its command, and a READ's after its bounds are known. -/
theorem copyFaultsAreReturned : Obligations.CopyFaultsAreReturned := fun _ hm =>
  ⟨fun buf hfree => execWrite_free buf false hm hfree, fun _ _ hoff hlen => execRead_of_copy_fault hm hoff hlen⟩

/-- Settles O44: both ask for the mapped window only. -/
theorem openCloseAnswerOk : Obligations.OpenCloseAnswerOk := fun _ hm =>
  ⟨if_neg (not_not.mpr hm), if_neg (not_not.mpr hm)⟩

end Sys2Proof.Machine
end

section
/-!
Faults (60_exceptions.md): the entry of a fault as a set insertion, the records that a step can add, and the end of a
blink whose Set phase faults, with O5, O9 and O31.
-/
namespace Sys2Proof.Machine
open Sys2Proof

/-! ## Fault entry (R114, R122) -/

theorem mem_raiseFault (code : FaultCode) (value : FaultValue) (s : State) (x : FaultRecord) :
    x ∈ (raiseFault code value s).faults ↔ x ∈ s.faults ∨ x = ⟨code, value⟩ := by
  rw [raiseFault_faults]
  split
  case isTrue h => exact ⟨.inl, fun hx => hx.elim id fun hnew => hnew ▸ h⟩
  case isFalse => rw [List.mem_append, List.mem_singleton]

/-- Settles O9: insertion into a list without repeats. -/
theorem faultEntryAddsOneRecord : Obligations.FaultEntryAddsOneRecord := fun code value s =>
  ⟨mem_raiseFault code value s, nodup_raiseFault code value s, rfl⟩

/-- Settles O31: either Set phase of an unmapped window ends `abandoned`. -/
theorem sequencerFaultEndsBlink : Obligations.SequencerFaultEndsBlink := fun _ _ _ hm =>
  ⟨executorMove_setHigh_unmapped hm, executorMove_setLow_unmapped hm⟩

/-! ## The table's part of a cause (R107) -/

/-- Every recorded fault is one of R107's table. -/
def LegalFaults (s : State) : Prop := ∀ x ∈ s.faults, x.Legal s.params

theorem effect_keeps_legalFaults (s t : State) (he : Effect s t) (h : LegalFaults s) : LegalFaults t := by
  cases he with
  | fault code value hlegal =>
    intro x hx
    obtain hmem | rfl := (mem_raiseFault code value s x).mp hx
    · exact h x hmem
    · exact hlegal
  | write r v _ => simpa [LegalFaults] using h
  | turns | queue | error | answer | read | wait | granted | refused | unmapped | sequence => exact h

theorem step_keeps_legalFaults {s t : State} (h : step s = .next t) : LegalFaults s → LegalFaults t :=
  step_keeps (P := fun s t => LegalFaults s → LegalFaults t) (fun _ => id) (fun _ _ _ hst htu => htu ∘ hst)
    effect_keeps_legalFaults h

/-! ## The state's part of a cause (R107) -/

/-- The state has its part of the record's cause: F_NOT_MAPPED needs a window that is not mapped, and a recorded map or
seq is the state's. -/
def FoundIn (s : State) (x : FaultRecord) : Prop :=
  (x.code = .notMapped → s.map ≠ .mapped) ∧ (∀ m, x.value = .map m → m = s.map) ∧ ∀ q, x.value = .seq q → q = s.seq

theorem foundIn_pin (p : Int) (s : State) : FoundIn s ⟨.pinRange, .pin p⟩ := ⟨nofun, nofun, nofun⟩

theorem foundIn_map {code : FaultCode} (h : code ≠ .notMapped) (s : State) : FoundIn s ⟨code, .map s.map⟩ :=
  ⟨fun hcode => absurd hcode h, fun _ hm => (FaultValue.map.inj hm).symm, nofun⟩

theorem foundIn_seq (s : State) : FoundIn s ⟨.busy, .seq s.seq⟩ :=
  ⟨nofun, nofun, fun _ hq => (FaultValue.seq.inj hq).symm⟩

/-- The records of `t` that are new since `s` have their cause in `s`. -/
def AddsFound (s t : State) : Prop := ∀ x ∈ t.faults, x ∉ s.faults → FoundIn s x

theorem AddsFound.of_faults_eq {s t : State} (h : t.faults = s.faults) : AddsFound s t :=
  fun _ hx hnew => absurd (h ▸ hx) hnew

theorem AddsFound.congr {s t u : State} (hst : AddsFound s t) (h : u.faults = t.faults) : AddsFound s u :=
  fun x hx => hst x (h ▸ hx)

/-- A cause found later is found at the start, if map and seq are still those of the start. -/
theorem AddsFound.trans {s t u : State} (hst : AddsFound s t) (hmap : t.map = s.map) (hseq : t.seq = s.seq)
    (htu : AddsFound t u) : AddsFound s u := by
  intro x hx hnew
  by_cases ht : x ∈ t.faults
  · exact hst x ht hnew
  · have hfound := htu x hx ht
    rwa [FoundIn, hmap, hseq] at hfound

theorem addsFound_raiseFault {code : FaultCode} {value : FaultValue} {s : State} (h : FoundIn s ⟨code, value⟩) :
    AddsFound s (raiseFault code value s) := by
  intro x hx hnew
  obtain rfl := ((mem_raiseFault code value s x).mp hx).resolve_left hnew
  exact h

/-! ## The operations made of one access or check -/

theorem not_mapped_of_selectRegister {off : Int} {s : State} (h : selectRegister off s = .error .notMapped) :
    s.map ≠ .mapped := by
  intro hm
  rw [selectRegister, if_neg (not_not.mpr hm)] at h
  repeat' split at h
  all_goals cases h

/-- Items 1 to 4 of R35. -/
theorem addsFound_of_selectRegister {off : Int} {s : State} {code : FaultCode}
    (h : selectRegister off s = .error code) :
    AddsFound s (raiseFault code (.off off) s) :=
  addsFound_raiseFault ⟨fun hcode => not_mapped_of_selectRegister (h.trans (congrArg _ hcode)), nofun, nofun⟩

theorem addsFound_readReg (off : Int) (s : State) : AddsFound s (resState (readReg off s)) := by
  unfold readReg
  split
  case h_1 h => exact addsFound_of_selectRegister h
  case h_2 =>
    split
    · exact addsFound_raiseFault ⟨nofun, nofun, nofun⟩
    · exact .of_faults_eq rfl

theorem addsFound_writeWindow (off : Int) (v : Word) (s : State) : AddsFound s (resState (writeWindow off v s)) := by
  unfold writeWindow
  split
  case h_1 h => exact addsFound_of_selectRegister h
  case h_2 r _ => exact .of_faults_eq (writeReg_faults r v s)

theorem addsFound_drivePinCheck (p : Int) (s : State) : AddsFound s (resState (drivePinCheck p s)) := by
  unfold drivePinCheck
  split
  · exact .of_faults_eq rfl
  · exact addsFound_raiseFault (foundIn_pin p s)

theorem addsFound_mapWindow (s : State) : AddsFound s (resState (mapWindow s)) := by
  obtain ⟨_, h⟩ | ⟨_, _, h⟩ | ⟨_, _, h⟩ := mapWindow_cases s <;> rw [h]
  · exact addsFound_raiseFault (foundIn_map (by decide) s)
  · exact .of_faults_eq rfl
  · exact .of_faults_eq rfl

theorem addsFound_unmapWindow (s : State) : AddsFound s (resState (unmapWindow s)) := by
  unfold unmapWindow
  split
  · exact addsFound_raiseFault (foundIn_map (by decide) s)
  · split
    · exact addsFound_raiseFault (foundIn_seq s)
    · exact .of_faults_eq rfl

/-! ## The operations made of several -/

theorem addsFound_andThen {α β : Type} {s : State} {r : Res α} {k : α → State → Res β}
    (hr : AddsFound s (resState r)) (hmap : (resState r).map = s.map) (hseq : (resState r).seq = s.seq)
    (hk : ∀ a t, AddsFound t (resState (k a t))) : AddsFound s (resState (andThen r k)) := by
  cases r with
  | done a t => exact hr.trans hmap hseq (hk a t)
  | raised t => exact hr

theorem addsFound_setPin (p : Int) (s : State) : AddsFound s (resState (setPin p s)) :=
  addsFound_andThen (addsFound_drivePinCheck p s) (drivePinCheck_map p s) (drivePinCheck_seq p s)
    fun _ t => addsFound_writeWindow _ _ t

theorem addsFound_clearPin (p : Int) (s : State) : AddsFound s (resState (clearPin p s)) :=
  addsFound_andThen (addsFound_drivePinCheck p s) (drivePinCheck_map p s) (drivePinCheck_seq p s)
    fun _ t => addsFound_writeWindow _ _ t

theorem addsFound_configureAsOutput (p : Int) (s : State) : AddsFound s (resState (configureAsOutput p s)) := by
  unfold configureAsOutput
  split
  · exact addsFound_andThen (addsFound_readReg _ s) (readReg_map _ s) (readReg_seq _ s)
      fun _ t => addsFound_writeWindow _ _ t
  · exact addsFound_raiseFault (foundIn_pin p s)

theorem addsFound_forEachPin_clearPin (qs : List (Fin 32)) (s : State) :
    AddsFound s (resState (forEachPin clearPin qs s)) := by
  induction qs generalizing s with
  | nil => exact .of_faults_eq rfl
  | cons q qs ih =>
    exact addsFound_andThen (addsFound_clearPin _ s) (clearPin_map _ s) (clearPin_seq _ s) fun _ t => ih t

/-- Configuring through a mapped window raises nothing: what MAP has changed plays no part in STARTUP's faults. -/
theorem forEachPin_configureAsOutput_faults (qs : List (Fin 32)) {s : State} (hm : s.map = .mapped) :
    (resState (forEachPin configureAsOutput qs s)).faults = s.faults := by
  induction qs generalizing s with
  | nil => rfl
  | cons q qs ih =>
    have hq : configurablePin q.val = true := (configurablePin_iff _).mpr (by omega)
    rw [forEachPin, configureAsOutput_mapped q.val s hq hm, andThen_done, ih (by simpa using hm)]
    simp

theorem addsFound_startBlink (p d : Int) (s : State) : AddsFound s (resState (startBlink p d s)) := by
  unfold startBlink
  split
  · exact addsFound_raiseFault (foundIn_seq s)
  · refine andThen_keeps (addsFound_drivePinCheck p s) fun _ t ht => ?_
    split <;> exact ht

@[simp] theorem endBlink_faults (s : State) : (endBlink s).faults = s.faults := by rw [endBlink_eq]

theorem addsFound_abandonOnFault {s : State} {r : Res Unit} (h : AddsFound s (resState r)) :
    AddsFound s (resState (abandonOnFault r)) := by
  cases r <;> exact h

theorem addsFound_sequencerStep (s : State) : AddsFound s (resState (sequencerStep s)) := by
  unfold sequencerStep
  split
  · exact .of_faults_eq rfl
  · exact andThen_keeps (P := AddsFound s) (addsFound_abandonOnFault (addsFound_writeWindow _ _ s)) fun _ _ ht => ht
  · exact .of_faults_eq rfl
  · exact andThen_keeps (P := AddsFound s) (addsFound_abandonOnFault (addsFound_writeWindow _ _ s)) fun _ _ ht => ht
  · split
    · exact .of_faults_eq (endBlink_faults _)
    · exact .of_faults_eq rfl

theorem addsFound_interpret (r : Parsed) (s : State) : AddsFound s (resState (interpret r s)) := by
  unfold interpret
  split
  · exact .of_faults_eq rfl
  · split
    · exact .of_faults_eq rfl
    · split
      · rename_i a _ _
        cases a with
        | on => exact addsFound_setPin _ s
        | off => exact addsFound_clearPin _ s
        | blink => exact addsFound_startBlink _ _ s
      · exact .of_faults_eq rfl

theorem addsFound_runWrite (buf : List Byte) (ok : Bool) (s : State) : AddsFound s (runWrite buf ok s) := by
  have hi := addsFound_interpret (parse (effectiveText buf)) s
  unfold runWrite
  split
  · split <;> rename_i hr <;> rw [hr] at hi
    · exact hi
    · split <;> exact hi
  · exact .of_faults_eq rfl

/-! ## The requests and the Executor's moves -/

/-- Where the outcome is a next state, the records it adds have their cause in `s`. -/
def AnswersFound (s : State) (o : Host.Outcome State Fault Refusal) : Prop := ∀ t, o = .next t → AddsFound s t

theorem AnswersFound.next {s t : State} (h : AddsFound s t) : AnswersFound s (.next t) := by
  rintro _ ⟨⟩
  exact h

theorem AnswersFound.next_of_faults_eq {s t : State} (h : t.faults = s.faults) : AnswersFound s (.next t) :=
  .next (.of_faults_eq h)

theorem AnswersFound.refused (s : State) (r : Refusal) : AnswersFound s (.refused r) := nofun

theorem AnswersFound.ite {s : State} {c : Prop} [Decidable c] {o o' : Host.Outcome State Fault Refusal}
    (h : AnswersFound s o) (h' : AnswersFound s o') : AnswersFound s (if c then o else o') := by
  split
  · exact h
  · exact h'

theorem finishRead_answersFound (off : Int) (s : State) : AnswersFound s (finishRead (readReg off s)) := by
  have hr := addsFound_readReg off s
  cases hx : readReg off s <;> rw [hx] at hr <;> exact .next hr

theorem finish_writeWindow_answersFound (off : Int) (v : Word) (s : State) :
    AnswersFound s (finish (writeWindow off v s)) := .next (addsFound_writeWindow off v s)

theorem execMap_answersFound (s : State) : AnswersFound s (execMap s) := by
  have hm := addsFound_mapWindow s
  unfold execMap
  split <;> rename_i hr <;> rw [hr] at hm <;> exact .next hm

theorem map_of_mapWindow_granted {s t : State} (h : mapWindow s = .done none t) : t.map = .mapped := by
  obtain ⟨_, hr⟩ | ⟨_, _, hr⟩ | ⟨_, _, hr⟩ := mapWindow_cases s <;> rw [hr] at h <;> cases h
  rfl

/-- STARTUP's only fault is that of its MAP. -/
theorem execStartup_answersFound (s : State) : AnswersFound s (execStartup s) := by
  have hm := addsFound_mapWindow s
  unfold execStartup
  split <;> rename_i hr <;> rw [hr] at hm
  · exact .next hm
  · exact .next hm
  · rename_i t
    have hf : AddsFound s (resState (forEachPin configureAsOutput t.params.ledPins.list t)) :=
      hm.congr (forEachPin_configureAsOutput_faults _ (map_of_mapWindow_granted hr))
    split <;> rename_i hr' <;> rw [hr'] at hf <;> exact .next hf

theorem execShutdown_answersFound (s : State) : AnswersFound s (execShutdown s) := by
  have hc := addsFound_andThen (addsFound_forEachPin_clearPin s.params.ledPins.list s)
    (forEachPin_map clearPin_map _ s) (forEachPin_seq clearPin_seq _ s) fun _ t => addsFound_unmapWindow t
  refine .ite (.next ?_) (.ite ?_ (.refused _ _))
  · exact addsFound_raiseFault (foundIn_map (by decide) s)
  · split <;> rename_i hr <;> rw [hr] at hc <;> exact .next hc

theorem commandEntry_answersFound (r : Parsed) (s : State) : AnswersFound s (commandEntry r s) :=
  .ite (.refused _ _) (.ite (.next (addsFound_interpret r s)) (.next_of_faults_eq rfl))

theorem execWrite_answersFound (buf : List Byte) (ok : Bool) (s : State) : AnswersFound s (execWrite buf ok s) :=
  .ite (.refused _ _) (.ite (.next (addsFound_runWrite buf ok s)) (.next_of_faults_eq rfl))

theorem execRead_answersFound (n : Nat) (off : Int) (ok : Bool) (s : State) : AnswersFound s (execRead n off ok s) :=
  .ite (.refused _ _) (.ite (.refused _ _)
    (.ite (.next_of_faults_eq rfl) (.ite (.next_of_faults_eq rfl) (.next_of_faults_eq rfl))))

theorem exec_answersFound (i : Instr) (s : State) : AnswersFound s (exec i s) := by
  cases i with
  | busRdFsel0 | busRdFsel1 | busRdFsel2 | busRdFsel3 | busRdFsel4 | busRdFsel5 | readWord =>
    exact finishRead_answersFound _ s
  | busWrFsel0 | busWrFsel1 | busWrFsel2 | busWrFsel3 | busWrFsel4 | busWrFsel5 | busWrSet0 | busWrClr0 | writeWord =>
    exact finish_writeWindow_answersFound _ _ s
  | map => exact execMap_answersFound s
  | unmap => exact .next (addsFound_unmapWindow s)
  | configureAsOutput p => exact .next (addsFound_configureAsOutput p s)
  | set p => exact .next (addsFound_setPin p s)
  | clear p => exact .next (addsFound_clearPin p s)
  | blink p d => exact .next (addsFound_startBlink p d s)
  | delay ms => exact .next_of_faults_eq rfl
  | cmdOn | cmdOff | cmdBlink | cmdUnknown | cmdMalformed => exact commandEntry_answersFound _ s
  | openChannel | closeChannel => exact .ite (.refused _ _) (.next_of_faults_eq rfl)
  | write buf ok => exact execWrite_answersFound buf ok s
  | read n off ok => exact execRead_answersFound n off ok s
  | startup => exact execStartup_answersFound s
  | shutdown => exact execShutdown_answersFound s

theorem runHeld_answersFound (w : Held) (s : State) : AnswersFound s (runHeld w s) := by
  refine .ite (.refused _ _) ?_
  cases w with
  | write buf ok => exact .next (addsFound_runWrite buf ok s)
  | command r => exact .next (addsFound_interpret r s)

theorem executorMove_answersFound (s : State) : AnswersFound s (executorMove s) := by
  refine .ite (.next (addsFound_sequencerStep s)) ?_
  split
  case h_1 => exact .next_of_faults_eq rfl
  case h_2 w rest _ => exact runHeld_answersFound w { s with held := rest }

theorem rejectRequest_answersFound (e : DecodeError) (s : State) : AnswersFound s (rejectRequest e s) := by
  cases e with
  | busNoRow isWrite off data => exact .ite (finish_writeWindow_answersFound _ _ s) (finishRead_answersFound _ s)
  | busWidth | noSuchOperation | noSuchRequest => exact .refused _ _

/-! ## The step -/

/-- Taking a turn off the agenda leaves map, seq and the fault set, so each move finds the causes the step finds. -/
theorem step_addsFound {s t : State} (h : step s = .next t) : AddsFound s t := by
  obtain h | ⟨rest, -, h⟩ | ⟨_, rest, i, -, -, -, -, h⟩ | ⟨_, rest, e, -, -, h⟩ := step_cases s t h
  · exact executorMove_answersFound s t h
  · exact executorMove_answersFound { s with agenda := rest } t h
  · exact exec_answersFound i { s with agenda := rest } t h
  · exact rejectRequest_answersFound e { s with agenda := rest } t h

/-- Settles O5: `step_keeps_legalFaults` by the primitive effects, `step_addsFound` by the operations. -/
theorem faultRecordsStayLegal : Obligations.FaultRecordsStayLegal := fun _ _ h =>
  ⟨step_keeps_legalFaults h, step_addsFound h⟩

end Sys2Proof.Machine
end

section
/-!
What an operation on a list of pins ends in: the LED pins configured by STARTUP (R123) and cleared by SHUTDOWN (R124).
-/
namespace Sys2Proof.Machine
open Sys2Proof

/-! ## Configuring pins in list order (R70, R123) -/

/-- A drive pin among the pins that can be configured. -/
def configPin (q : Fin 32) : Fin 54 := q.castLE (by decide)

/-- The bank with the field of each listed pin set to output. -/
def outputBank : List (Fin 32) → FselBank → FselBank
  | [], b => b
  | q :: qs, b => outputBank qs (asOutput b (configPin q))

/-- The read and the write of each listed pin, each read seeing the writes before it. -/
def configureEvents : List (Fin 32) → FselBank → List Event
  | [], _ => []
  | q :: qs, b =>
    .rd (regOffset (.fsel (pinReg (configPin q)))) (getFsel b (pinReg (configPin q))) ::
    .wr (regOffset (.fsel (pinReg (configPin q)))) (getFsel (asOutput b (configPin q)) (pinReg (configPin q))) ::
    configureEvents qs (asOutput b (configPin q))

/-- The state after configuring each listed pin. -/
def pinsConfigured (qs : List (Fin 32)) (s : State) : State :=
  { s with fsel := outputBank qs s.fsel, trace := s.trace ++ configureEvents qs s.fsel }

theorem pinsConfigured_nil (s : State) : pinsConfigured [] s = s := by
  simp only [pinsConfigured, outputBank, configureEvents, List.append_nil]

theorem pinsConfigured_cons (q : Fin 32) (qs : List (Fin 32)) (s : State) :
    pinsConfigured (q :: qs) s = pinsConfigured qs (configured (configPin q) s) := by
  simp only [pinsConfigured, outputBank, configureEvents, configured, regOffset, List.append_assoc, List.cons_append,
    List.nil_append]

theorem configureAsOutput_configPin (q : Fin 32) {s : State} (hm : s.map = .mapped) :
    configureAsOutput q.val s = .done () (configured (configPin q) s) := by
  rw [configureAsOutput_mapped q.val s (configurablePin_fin (configPin q)) hm, configured, getFsel_asOutput_same]
  simp only [emit, writeReg, List.append_assoc]
  rfl

theorem forEachPin_configureAsOutput (qs : List (Fin 32)) {s : State} (hm : s.map = .mapped) :
    forEachPin configureAsOutput qs s = .done () (pinsConfigured qs s) := by
  induction qs generalizing s with
  | nil => rw [forEachPin, pinsConfigured_nil]
  | cons q qs ih =>
    have hrest := ih (s := configured (configPin q) s) hm
    rw [forEachPin, configureAsOutput_configPin q hm, andThen_done, hrest, pinsConfigured_cons]

/-- Setting one pin's field keeps another's output. -/
theorem pinField_asOutput_of_output {b : FselBank} {p : Fin 54} (q : Fin 54) (h : pinField b p = 1) :
    pinField (asOutput b q) p = 1 := by
  by_cases hpq : p = q
  · rw [hpq, pinField_asOutput]
  · rw [asOutput, pinField_setFsel_withOutputField b q p hpq, h]

theorem pinField_outputBank_of_output (qs : List (Fin 32)) {b : FselBank} {p : Fin 54} (h : pinField b p = 1) :
    pinField (outputBank qs b) p = 1 := by
  induction qs generalizing b with
  | nil => exact h
  | cons q qs ih => exact ih (pinField_asOutput_of_output (configPin q) h)

theorem pinField_outputBank {qs : List (Fin 32)} {q : Fin 32} (b : FselBank) (h : q ∈ qs) :
    pinField (outputBank qs b) (configPin q) = 1 := by
  induction h generalizing b with
  | head qs => exact pinField_outputBank_of_output qs (pinField_asOutput b (configPin q))
  | tail r _ ih => exact ih (asOutput b (configPin r))

/-- Bit `i` of FSELn is a bit of pin `p`'s field (R14, R52). -/
abbrev InField (p : Nat) (n : Fin 6) (i : Nat) : Prop := p / 10 = n.val ∧ p % 10 * 3 ≤ i ∧ i < p % 10 * 3 + 3

theorem getLsbD_asOutput (b : FselBank) {p : Fin 54} {n : Fin 6} {i : Nat} (h : ¬ InField p.val n i) :
    (getFsel (asOutput b p) n).getLsbD i = (getFsel b n).getLsbD i := by
  by_cases hn : n = pinReg p
  · subst hn
    have hout : ¬ (fieldShift p.val ≤ i ∧ i < fieldShift p.val + 3) := fun hin => h ⟨rfl, hin⟩
    rw [getFsel_asOutput_same, getLsbD_withOutputField _ _ _ (by omega)]
  · rw [getFsel_asOutput_ne b p n hn]

theorem getLsbD_outputBank {qs : List (Fin 32)} (b : FselBank) {n : Fin 6} {i : Nat}
    (h : ∀ q ∈ qs, ¬ InField q.val n i) : (getFsel (outputBank qs b) n).getLsbD i = (getFsel b n).getLsbD i := by
  induction qs generalizing b with
  | nil => rfl
  | cons q qs ih =>
    obtain ⟨hq, hqs⟩ := List.forall_mem_cons.mp h
    exact (ih _ hqs).trans (getLsbD_asOutput b (p := configPin q) hq)

theorem length_configureEvents (qs : List (Fin 32)) (b : FselBank) :
    (configureEvents qs b).length = 2 * qs.length := by
  induction qs generalizing b with
  | nil => rfl
  | cons q qs ih =>
    simp only [configureEvents, List.length_cons, ih]
    omega

/-- The events of the `k`-th pin are a read of its register and the write of the value read, with the field set. -/
theorem getElem?_configureEvents {qs : List (Fin 32)} {k : Nat} {q : Fin 32} (b : FselBank) (h : qs[k]? = some q) :
    ∃ v, (configureEvents qs b)[2 * k]? = some (.rd (fselOffset q.val) v) ∧
      (configureEvents qs b)[2 * k + 1]? = some (.wr (fselOffset q.val) (withOutputField v q.val)) := by
  induction qs generalizing b k with
  | nil => cases h
  | cons r qs ih =>
    cases k with
    | zero =>
      obtain rfl : r = q := Option.some.inj h
      exact ⟨_, rfl, congrArg (fun w => some (Event.wr _ w)) (getFsel_asOutput_same b (configPin r))⟩
    | succ k => exact ih (asOutput b (configPin r)) h

/-- The events of configuring a list of pins, replayed, give the device after it. -/
theorem replay_configureEvents (qs : List (Fin 32)) {s : State} (hm : s.map = .mapped) :
    replay s.device (configureEvents qs s.fsel) = some (pinsConfigured qs s).device := by
  induction qs generalizing s with
  | nil => rfl
  | cons q qs ih =>
    have hwr := applyEvent_wr (.fsel (pinReg (configPin q)))
      (getFsel (asOutput s.fsel (configPin q)) (pinReg (configPin q))) s hm
    have hrest := ih (s := configured (configPin q) s) hm
    rw [getFsel_asOutput_same] at hwr
    rw [pinsConfigured_cons, ← hrest, configureEvents, replay, applyEvent_rd _ s hm, Option.bind_some, replay,
      getFsel_asOutput_same, hwr, Option.bind_some]
    rfl

/-! ## Clearing pins in list order (R72, R124) -/

/-- The state after clearing each listed pin. -/
def pinsCleared (qs : List (Fin 32)) (s : State) : State :=
  { s with
    out := qs.foldl (fun out q => clearBits out (driveMask q.val)) s.out
    trace := s.trace ++ qs.map fun q => .wr offClr0 (driveMask q.val) }

theorem pinsCleared_nil (s : State) : pinsCleared [] s = s := by
  simp only [pinsCleared, List.foldl_nil, List.map_nil, List.append_nil]

theorem pinsCleared_cons (q : Fin 32) (qs : List (Fin 32)) (s : State) :
    pinsCleared (q :: qs) s = pinsCleared qs (drivenLow q s) := by
  simp only [pinsCleared, drivenLow, emit, List.foldl_cons, List.map_cons, List.append_assoc, List.cons_append,
    List.nil_append]

theorem forEachPin_clearPin (qs : List (Fin 32)) {s : State} (hm : s.map = .mapped) :
    forEachPin clearPin qs s = .done () (pinsCleared qs s) := by
  induction qs generalizing s with
  | nil => rw [forEachPin, pinsCleared_nil]
  | cons q qs ih =>
    have hclear : clearPin q.val s = .done () (drivenLow q s) := clearPin_mapped q.val s (drivablePin_fin q) hm
    have hrest := ih (s := drivenLow q s) hm
    rw [forEachPin, hclear, andThen_done, hrest, pinsCleared_cons]

theorem getLsbD_out_pinsCleared (qs : List (Fin 32)) (s : State) (i : Nat) :
    (pinsCleared qs s).out.getLsbD i = if ∃ q ∈ qs, i = q.val then false else s.out.getLsbD i := by
  induction qs generalizing s with
  | nil => simp [pinsCleared_nil]
  | cons q qs ih =>
    rw [pinsCleared_cons, ih, getLsbD_out_drivenLow, ← ite_or]
    simp only [List.exists_mem_cons_iff, or_comm]

end Sys2Proof.Machine
end

section
/-!
The lifecycle (70_reset_and_hazards.md): launch, STARTUP and SHUTDOWN, with O1, O46, O47, O48 and O49.
-/
namespace Sys2Proof.Machine
open Sys2Proof

/-- Settles O1: the fields of `State.launch`; reset is the launch with zero draws (log 4). -/
theorem launchState : Obligations.LaunchState :=
  ⟨fun _ _ _ => ⟨rfl, rfl, rfl, rfl, rfl, rfl, rfl⟩, _, _, rfl⟩

/-! ## STARTUP (R123) -/

/-- The state after a granted MAP (R65). -/
def windowMapped (base : Nat) (s : State) : State :=
  emit (.mapAnswered true) { s with map := .mapped, vbase := base }

theorem mapWindow_of_granted {s : State} {base : Nat} (hm : s.map = .preMap)
    (hg : s.params.mapGrant = .granted base) : mapWindow s = .done none (windowMapped base s) := by
  simp only [mapWindow, hm, hg, ne_eq, not_true, if_false, windowMapped]

theorem execStartup_of_granted {s : State} {base : Nat} (hm : s.map = .preMap)
    (hg : s.params.mapGrant = .granted base) :
    exec .startup s = .next (reply .ok (pinsConfigured s.params.ledPins.list (windowMapped base s))) := by
  have hparams : (windowMapped base s).params = s.params := rfl
  have hpins := forEachPin_configureAsOutput s.params.ledPins.list (s := windowMapped base s) rfl
  simp only [exec, execStartup, mapWindow_of_granted hm hg, hparams, hpins]

theorem execStartup_of_refused {s : State} {reason : MapReason} (hm : s.map = .preMap)
    (hg : s.params.mapGrant = .refused reason) :
    exec .startup s =
      .next (reply (.error .eMap (some reason)) (emit (.mapAnswered false) { s with map := .mapFailed })) := by
  simp only [exec, execStartup, mapWindow, hm, hg, ne_eq, not_true, if_false]

theorem execStartup_of_not_preMap {s : State} (hm : s.map ≠ .preMap) :
    exec .startup s = .next (raiseFault .doubleMap (.map s.map) s) := by
  simp only [exec, execStartup, mapWindow, if_pos hm]

/-- Settles O46: the bank, the events and their replay, each for the LED pins in list order. -/
theorem startupMapsAndConfigures : Obligations.StartupMapsAndConfigures := by
  intro base s hm hg
  refine ⟨_, configureEvents s.params.ledPins.list s.fsel, execStartup_of_granted hm hg, fun q hq p hp => ?_,
    fun n i h => getLsbD_outputBank s.fsel h, length_configureEvents _ _, fun k => ?_,
    replay_configureEvents s.params.ledPins.list (s := { s with map := .mapped }) rfl, ?_⟩
  · obtain rfl : p = configPin q := Fin.ext hp
    exact pinField_outputBank s.fsel hq
  · have hk : s.params.ledPins.list[k.val]? = some s.params.ledPins.list[k.val] := List.getElem?_eq_getElem k.isLt
    obtain ⟨v, hrd, hwr⟩ := getElem?_configureEvents s.fsel hk
    exact ⟨_, v, _, hk, hrd, hwr, rfl⟩
  · simp only [reply, pinsConfigured, windowMapped, emit, List.append_assoc, List.cons_append, List.nil_append]

/-! ## SHUTDOWN (R124) -/

theorem execShutdown_of_free {s : State} (hm : s.map = .mapped) (hfree : executorFree s = true) :
    exec .shutdown s =
      .next (reply .ok (emit .unmapped { pinsCleared s.params.ledPins.list s with map := .unmapped })) := by
  have hunmap : unmapWindow (pinsCleared s.params.ledPins.list s) =
      .done () (emit .unmapped { pinsCleared s.params.ledPins.list s with map := .unmapped }) := by
    simp only [unmapWindow, pinsCleared, hm, seq_of_executorFree hfree, ne_eq, not_true, if_false]
  simp only [exec, execShutdown, hm, hfree, forEachPin_clearPin _ hm, andThen_done, hunmap, ne_eq, not_true, if_false,
    if_true]

theorem execShutdown_of_not_mapped {s : State} (hm : s.map ≠ .mapped) :
    exec .shutdown s = .next (raiseFault .doubleUnmap (.map s.map) s) := by
  simp only [exec, execShutdown, if_pos hm]

theorem execShutdown_of_busy {s : State} (hm : s.map = .mapped) (hfree : executorFree s = false) :
    exec .shutdown s = .refused .shutdownNotIdle := by
  simp only [exec, execShutdown, hm, hfree, ne_eq, not_true, if_false, Bool.false_eq_true]

/-- Settles O48: the LED pins cleared, then the window unmapped; `unmapped` and idle is `shutDown` (R136 (a)). -/
theorem shutdownClearsAndUnmaps : Obligations.ShutdownClearsAndUnmaps := by
  intro s hm hfree
  refine ⟨_, execShutdown_of_free hm hfree, fun i => ?_, ?_, fun hf => .inl ⟨rfl, seq_of_executorFree hfree, hf⟩⟩
  · have hout := getLsbD_out_pinsCleared s.params.ledPins.list s i
    simp only [LedPins.list, List.exists_mem_cons_iff, List.not_mem_nil, false_and, exists_false, or_false] at hout
    exact hout
  · simp only [reply, emit, pinsCleared, LedPins.list, List.map_cons, List.map_nil, List.append_assoc,
      List.cons_append, List.nil_append]
    rfl

/-! ## As coming requests (R102; logs 9, 16, 17) -/

/-- The two requests of the lifecycle. -/
def IsLifecycle (i : Instr) : Prop := i = .startup ∨ i = .shutdown

theorem decode_encode_of_lifecycle {i : Instr} (hi : IsLifecycle i) : decode (encode i) = .ok i :=
  decodeOfEncode i (by obtain rfl | rfl := hi <;> rfl)

theorem waitsForExecutor_of_lifecycle {i : Instr} (hi : IsLifecycle i) : waitsForExecutor (encode i) = true := by
  rw [waitsForExecutor_iff, decode_encode_of_lifecycle hi]
  obtain rfl | rfl := hi <;> simp

theorem step_of_lifecycle_busy {i : Instr} (hi : IsLifecycle i) {s : State} {rest : List Turn}
    (ha : s.agenda = .request (encode i) :: rest) (hfree : executorFree s = false) : step s = executorMove s :=
  step_of_waiting ha (waitsForExecutor_of_lifecycle hi) hfree

theorem step_of_lifecycle_excluded {i : Instr} (hi : IsLifecycle i) {s : State} {rest : List Turn}
    (ha : s.agenda = .request (encode i) :: rest) (hfree : executorFree s = true)
    (hx : excludedByHostDuty i s = true) : step s = .refused .excludedRequest := by
  rw [step_of_decode s _ rest i ha (decode_encode_of_lifecycle hi) (.inr hfree), if_pos hx]

/-- Settles O47: the two answers of `exec`, and the two of the step. -/
theorem startupRefusedOrRepeated : Obligations.StartupRefusedOrRepeated := fun s =>
  ⟨fun _ => execStartup_of_refused, execStartup_of_not_preMap, fun _ ha =>
    ⟨step_of_lifecycle_busy (.inl rfl) ha, fun hfree hm =>
      step_of_lifecycle_excluded (.inl rfl) ha hfree ((excludedByHostDuty_iff _ s).mpr (.inl ⟨rfl, hm⟩))⟩⟩

/-- Settles O49: as O47, with `exec`'s refusal of a mapped, busy block. -/
theorem shutdownOtherwise : Obligations.ShutdownOtherwise := fun s =>
  ⟨execShutdown_of_not_mapped, execShutdown_of_busy, fun _ ha =>
    ⟨step_of_lifecycle_busy (.inr rfl) ha, fun hfree hm =>
      step_of_lifecycle_excluded (.inr rfl) ha hfree ((excludedByHostDuty_iff _ s).mpr (.inr ⟨rfl, hm⟩))⟩⟩

end Sys2Proof.Machine
end
